-- ==== Sys2Proof/Word.lean ====
section
/-! DEFINITION. The command word and the enumerations every other file uses (00_scope.md R9, R11; 60_exceptions.md R161). -/

namespace Sys2Proof

/-- One command of the port `cmd`: 8 bits, bit 0 the least significant (30_encoding.md R70). -/
abbrev CmdWord := BitVec 8

/-- The three phases (R11). -/
inductive Phase
  | a
  | b
  | c
  deriving DecidableEq, Repr, Inhabited

/-- `for p in [A, B, C]`: the fixed order of iteration (R10). -/
def Phase.all : List Phase := [.a, .b, .c]

/-- The phase code of R11: A = `00`, B = `01`, C = `10`. -/
def Phase.code : Phase → BitVec 2
  | .a => 0b00#2
  | .b => 0b01#2
  | .c => 0b10#2

/-- Direction of a pin: IN is stored as 0, OUT as 1 (R11). -/
inductive Dir
  | input
  | output
  deriving DecidableEq, Repr, Inhabited

/-- The stored bit of a direction (R11). -/
def Dir.bit : Dir → Bool
  | .input => false
  | .output => true

/-- The direction a stored bit stands for (R11). -/
def Dir.ofBit : Bool → Dir
  | false => .input
  | true => .output

/-- The six sectors (R11). -/
inductive Sector
  | s1
  | s2
  | s3
  | s4
  | s5
  | s6
  deriving DecidableEq, Repr, Inhabited

/-- The sectors in their cyclic order. -/
def Sector.all : List Sector := [.s1, .s2, .s3, .s4, .s5, .s6]

/-- The Sector Index of a sector, 1 to 6 in 3 bits (41_commutation_engine.md R124). -/
def Sector.index : Sector → BitVec 3
  | .s1 => 1#3
  | .s2 => 2#3
  | .s3 => 3#3
  | .s4 => 4#3
  | .s5 => 5#3
  | .s6 => 6#3

/-- The next sector of the cycle, sector 1 after sector 6 (R125, item 3). -/
def Sector.next : Sector → Sector
  | .s1 => .s2
  | .s2 => .s3
  | .s3 => .s4
  | .s4 => .s5
  | .s5 => .s6
  | .s6 => .s1

/-- The place of a sector in a table of six. -/
def Sector.slot : Sector → Fin 6
  | .s1 => 0
  | .s2 => 1
  | .s3 => 2
  | .s4 => 3
  | .s5 => 4
  | .s6 => 5

/-- A Sector Index: a sector, or the sentinel INVALID (R11, R124). -/
inductive SectorIndex
  | invalid
  | sector (s : Sector)
  deriving DecidableEq, Repr, Inhabited

/-- The 3-bit representation of a Sector Index: INVALID is 0 (R124). -/
def SectorIndex.bits : SectorIndex → BitVec 3
  | .invalid => 0#3
  | .sector s => s.index

/-- What a phase does in a sector (R11): source through its high side, sink through its low-side PWM gate, or off. -/
inductive Role
  | src
  | snk
  | off
  deriving DecidableEq, Repr, Inhabited

/-- The closed list of refusal reasons (60_exceptions.md R161). -/
inductive RefusedReason
  /-- A command presented while `busy = 1`; raised by the HOST's issue step. -/
  | busy
  /-- `OP` is `0x0` or `0x8` to `0xF`; raised by the decoder. -/
  | reservedOpcode
  /-- A reserved bit of a legal `OP` is 1; raised by the decoder. -/
  | nonzeroReservedBits
  /-- The phase field is `11`; raised by the decoder. -/
  | badPhase
  /-- ACTIVATE_SECTOR with `ARG` `000` or `111`; raised by the decoder. -/
  | badSector
  /-- A parameter breaks its constraint; raised at the model's start. -/
  | badConfig
  /-- An agent outside the block writes a pin or the PWM selection. -/
  | foreignWriter
  deriving DecidableEq, Repr, Inhabited

/-- The three fields of a CMD8 word (30_encoding.md R70): `OP = w[7:4]`, `Z = w[3]`, `ARG = w[2:0]`. -/
structure Cmd8 where
  op  : BitVec 4
  z   : BitVec 1
  arg : BitVec 3
  deriving DecidableEq, Repr

end Sys2Proof
end

