-- ==== Sys2Proof/Config.lean ====
section
/-! DEFINITION. The parameters of a build (00_scope.md R6), their defaults, and the free values the spec leaves open
(10_state.md R30, 70_reset_and_hazards.md R181). -/

namespace Sys2Proof

/-- The implementation parameters of R6, fixed for a build. The low side's off level is no parameter: it is 1 (R6). -/
structure Config where
  /-- `W_IN`, the width of the Hall input register. -/
  wIn : Nat
  /-- `HALL_POS_A`: which bit of the input register sensor A is wired to. -/
  hallPosA : Nat
  /-- `HALL_POS_B`. -/
  hallPosB : Nat
  /-- `HALL_POS_C`. -/
  hallPosC : Nat
  /-- `SECTOR_ROM`: 8 entries of 3 bits, indexed by Hall Code (10_state.md R31). -/
  sectorRom : Vector (BitVec 3) 8
  /-- `SECTOR_PHASES`: for sectors 1 to 6 the pair (source phase, sink phase) (41_commutation_engine.md R125). -/
  sectorPhases : Vector (Phase × Phase) 6
  /-- `HS_ON_LEVEL`: the level that turns a high side on. -/
  hsOnLevel : Bool
  /-- `RESET_OUTPUTS_KNOWN`: whether reset drives the all-off state. -/
  resetOutputsKnown : Bool
  deriving DecidableEq, Repr

namespace Config

/-- The defaults of R6 (the ROM is R123's, the phase assignment R125's). -/
def default : Config where
  wIn := 8
  hallPosA := 3
  hallPosB := 4
  hallPosC := 5
  sectorRom := #v[0, 5, 1, 6, 3, 4, 2, 0]
  sectorPhases := #v[(.b, .a), (.b, .c), (.a, .c), (.a, .b), (.c, .b), (.c, .a)]
  hsOnLevel := true
  resetOutputsKnown := true

/-- `ROMRead(c)`: one constant read of `SECTOR_ROM` (10_state.md R31). -/
def romRead (cfg : Config) (c : BitVec 3) : BitVec 3 :=
  cfg.sectorRom[c.toNat]

/-- `src(s)`: the phase that sources current in sector `s` (R125). -/
def src (cfg : Config) (s : Sector) : Phase :=
  cfg.sectorPhases[s.slot].1

/-- `snk(s)`: the phase that sinks current in sector `s` (R125). -/
def snk (cfg : Config) (s : Sector) : Phase :=
  cfg.sectorPhases[s.slot].2

/-- What phase `p` does in sector `s`; `off(s)` is the phase with the role off (R11, R125). -/
def role (cfg : Config) (s : Sector) (p : Phase) : Role :=
  if p = cfg.src s then .src else if p = cfg.snk s then .snk else .off

/-- FREE VALUE: the level channel `PWM_p` drives at an instant, "a free value at each instant, under no law"
(10_state.md R30; log 5). -/
opaque pwmDraw : Nat → Phase → Bool

/-- FREE VALUE: the packed output fields of a phase after a reset with `RESET_OUTPUTS_KNOWN = false`, "any value, chosen
freely" (70_reset_and_hazards.md R181; log 6). -/
opaque resetDraw : Nat → Phase → BitVec 5

end Config

end Sys2Proof
end

