-- ==== Sys2Proof/Syntax.lean ====
section
/-! DEFINITION. The commands: one constructor per row of spec/opcode_table.json (30_encoding.md R72). -/

namespace Sys2Proof

/-- A command of the block. The operands are the phases and sectors themselves, so that a term names no phase `11` and no
sector 0 or 7 (30_encoding.md R73). -/
inductive Instr
  /-- `COMMUTATE`, the entry point (41_commutation_engine.md R134). -/
  | commutate
  /-- `ALL_OFF`, the fault path (41_commutation_engine.md R133). -/
  | allOff
  /-- `ACTIVATE_SECTOR s` (41_commutation_engine.md R132). -/
  | activateSector (s : Sector)
  /-- `ENABLE_HIGH p` (40_phase_driver.md R101). -/
  | enableHigh (p : Phase)
  /-- `DISABLE_HIGH p` (40_phase_driver.md R102). -/
  | disableHigh (p : Phase)
  /-- `ENABLE_LOW_PWM p` (40_phase_driver.md R103). -/
  | enableLowPwm (p : Phase)
  /-- `DISABLE_LOW_PWM p` (40_phase_driver.md R104). -/
  | disableLowPwm (p : Phase)
  deriving DecidableEq, Repr, Inhabited

/-- The 20 commands (30_encoding.md R72). -/
def Instr.all : List Instr :=
  [.commutate, .allOff] ++ Sector.all.map .activateSector ++ Phase.all.map .enableHigh ++ Phase.all.map .disableHigh
    ++ Phase.all.map .enableLowPwm ++ Phase.all.map .disableLowPwm

end Sys2Proof
end

