-- ==== Sys2Proof/WellFormed.lean ====
section
/-! DEFINITION. What is well formed: a configuration (00_scope.md R6, R7) and the fields of a command word
(30_encoding.md R72 to R74). A term of `Instr` is well formed by its type (log 7). -/

namespace Sys2Proof

namespace Config

/-- `W_IN >= 3` (R6). -/
def widthOk (cfg : Config) : Bool := decide (3 ≤ cfg.wIn)

/-- Each Hall position is below `W_IN` (R6). -/
def positionsInRange (cfg : Config) : Bool :=
  decide (cfg.hallPosA < cfg.wIn) && decide (cfg.hallPosB < cfg.wIn) && decide (cfg.hallPosC < cfg.wIn)

/-- The Hall positions are pairwise distinct (R6). -/
def positionsDistinct (cfg : Config) : Bool :=
  decide (cfg.hallPosA ≠ cfg.hallPosB) && decide (cfg.hallPosA ≠ cfg.hallPosC) && decide (cfg.hallPosB ≠ cfg.hallPosC)

/-- The six valid Hall Codes (41_commutation_engine.md R121); also the six Sector Indexes. -/
def validCodes : List (BitVec 3) := [1, 2, 3, 4, 5, 6]

/-- ROM entries 0 and 7 are INVALID (41_commutation_engine.md R122). -/
def romEndsInvalid (cfg : Config) : Bool := cfg.romRead 0 == 0 && cfg.romRead 7 == 0

/-- ROM entries 1 to 6 are a permutation of 1 to 6 (41_commutation_engine.md R122). -/
def romPermutes (cfg : Config) : Bool := (validCodes.map cfg.romRead).isPerm validCodes

/-- Item 1 of the invariant of 41_commutation_engine.md R125: source and sink differ in every sector. -/
def phasesDiffer (cfg : Config) : Bool := Sector.all.all fun s => decide (cfg.src s ≠ cfg.snk s)

/-- Item 2 of R125: the six pairs are pairwise distinct. -/
def pairsDistinct (cfg : Config) : Bool := decide (Sector.all.map fun s => (cfg.src s, cfg.snk s)).Nodup

/-- Item 3 of R125: from each sector to the next exactly one of source and sink changes. -/
def oneEndMoves (cfg : Config) : Bool :=
  Sector.all.all fun s => (cfg.src s == cfg.src s.next) != (cfg.snk s == cfg.snk s.next)

/-- The configuration check of R7: every constraint of R6. -/
def wellFormed (cfg : Config) : Bool :=
  cfg.widthOk && cfg.positionsInRange && cfg.positionsDistinct && cfg.romEndsInvalid && cfg.romPermutes
    && cfg.phasesDiffer && cfg.pairsDistinct && cfg.oneEndMoves

end Config

/-- The operand constraint of each `OP` (30_encoding.md R72, R73); a reserved `OP` has no legal operand. -/
def Cmd8.argLegal (f : Cmd8) : Bool :=
  if f.op = 0x1 ∨ f.op = 0x2 then f.arg = 0
  else if f.op = 0x3 then f.arg ≠ 0 ∧ f.arg ≠ 7
  else if f.op = 0x4 ∨ f.op = 0x5 ∨ f.op = 0x6 ∨ f.op = 0x7 then f.arg < 3
  else false

/-- The fields of a legal word: `Z` is 0 and the operand is legal for its `OP` (30_encoding.md R72). -/
def Cmd8.wellFormed (f : Cmd8) : Bool := f.z = 0 ∧ f.argLegal

end Sys2Proof
end

