-- ==== Sys2Proof/Decode.lean ====
section
/-! DEFINITION. The decoder (30_encoding.md R76), total on all 256 words and refusing by name, and the encoder (R72). -/

namespace Sys2Proof

/-- The fields of a word: `OP = w[7:4]`, `Z = w[3]`, `ARG = w[2:0]` (R70). -/
def Cmd8.ofWord (w : CmdWord) : Cmd8 where
  op := w.extractLsb' 4 4
  z := w.extractLsb' 3 1
  arg := w.extractLsb' 0 3

/-- `[A, B, C][arg[1:0]]`; `11` names no phase (R73). -/
def decodePhase (arg : BitVec 3) : Except RefusedReason Phase :=
  let pp := arg.extractLsb' 0 2
  if pp = 0b00 then .ok .a
  else if pp = 0b01 then .ok .b
  else if pp = 0b10 then .ok .c
  else .error .badPhase

/-- The sector `ARG` names; 0 and 7 name none (R73). -/
def decodeSector (arg : BitVec 3) : Except RefusedReason Sector :=
  if arg = 1 then .ok .s1
  else if arg = 2 then .ok .s2
  else if arg = 3 then .ok .s3
  else if arg = 4 then .ok .s4
  else if arg = 5 then .ok .s5
  else if arg = 6 then .ok .s6
  else .error .badSector

/-- A primitive's operand: `ARG[2]` must be 0, then `ARG[1:0]` is the phase (R74, R76). -/
def decodePrimitive (arg : BitVec 3) (k : Phase → Instr) : Except RefusedReason Instr :=
  if arg.getLsbD 2 then .error .nonzeroReservedBits else (decodePhase arg).map k

/-- A command without an operand: `ARG` must be `000` (R74, R76). -/
def decodePlain (arg : BitVec 3) (i : Instr) : Except RefusedReason Instr :=
  if arg ≠ 0 then .error .nonzeroReservedBits else .ok i

/-- The decoder over the fields, in the order of the checks of R76. -/
def decodeFields (f : Cmd8) : Except RefusedReason Instr :=
  if f.op = 0x0 ∨ 0x8 ≤ f.op then .error .reservedOpcode
  else if f.z = 1 then .error .nonzeroReservedBits
  else if f.op = 0x1 then decodePlain f.arg .commutate
  else if f.op = 0x2 then decodePlain f.arg .allOff
  else if f.op = 0x3 then (decodeSector f.arg).map .activateSector
  else if f.op = 0x4 then decodePrimitive f.arg .enableHigh
  else if f.op = 0x5 then decodePrimitive f.arg .disableHigh
  else if f.op = 0x6 then decodePrimitive f.arg .enableLowPwm
  else decodePrimitive f.arg .disableLowPwm

/-- `decode(w)` (R76). -/
def decode (w : CmdWord) : Except RefusedReason Instr := decodeFields (Cmd8.ofWord w)

/-- The `OP` field of a command (R72). -/
def Instr.opcode : Instr → BitVec 4
  | .commutate => 0x1
  | .allOff => 0x2
  | .activateSector _ => 0x3
  | .enableHigh _ => 0x4
  | .disableHigh _ => 0x5
  | .enableLowPwm _ => 0x6
  | .disableLowPwm _ => 0x7

/-- The `ARG` field of a command: a sector index, `0pp`, or `000` (R72). -/
def Instr.arg : Instr → BitVec 3
  | .commutate => 0
  | .allOff => 0
  | .activateSector s => s.index
  | .enableHigh p => 0#1 ++ p.code
  | .disableHigh p => 0#1 ++ p.code
  | .enableLowPwm p => 0#1 ++ p.code
  | .disableLowPwm p => 0#1 ++ p.code

/-- The word of a command: `OP`, then `Z = 0`, then `ARG` (R70, R72). -/
def encode (i : Instr) : CmdWord := i.opcode ++ (0#1 ++ i.arg)

/-- The instruction the decoder reads from a table word. A command is one 8-bit word (R70): the first byte of what is
laid out, with every bit above `nbits` zero. -/
def decodeTableWord (nbits w : Nat) : Option Instr :=
  match decode (BitVec.ofNat 8 (w % 2 ^ nbits)) with
  | .ok i => some i
  | .error _ => none

end Sys2Proof
end

