-- ==== Sys2Proof/Machine/Outputs.lean ====
section
/-! DEFINITION. The Phase Driver's output state (10_state.md R24, R27), its reset values (70_reset_and_hazards.md R180, R181),
and the micro-ops (40_phase_driver.md R100). -/

namespace Sys2Proof.Machine

/-- The five one-bit fields F0 to F4 of one phase (10_state.md R24). -/
structure PhaseOut where
  /-- F0, direction of `HS_p`. -/
  hsDir : Dir
  /-- F1, level driven on `HS_p` when it is an output. -/
  hsLat : Bool
  /-- F2, direction of `LS_p` while PWM does not own it. -/
  lsDir : Dir
  /-- F3, level driven on `LS_p` while it is a plain output. -/
  lsLat : Bool
  /-- F4, whether `LS_p` is connected to `PWM_p`. -/
  lsPwm : Bool
  deriving DecidableEq, Repr, Inhabited

/-- `{hs_dir, hs_lat, ls_dir, ls_lat, ls_pwm}`, most significant first (10_state.md R27). -/
def PhaseOut.pack (o : PhaseOut) : BitVec 5 :=
  BitVec.ofBool o.hsDir.bit ++ BitVec.ofBool o.hsLat ++ BitVec.ofBool o.lsDir.bit ++ BitVec.ofBool o.lsLat
    ++ BitVec.ofBool o.lsPwm

/-- The fields a packed value stands for (10_state.md R27). -/
def PhaseOut.unpack (v : BitVec 5) : PhaseOut where
  hsDir := Dir.ofBit (v.getLsbD 4)
  hsLat := v.getLsbD 3
  lsDir := Dir.ofBit (v.getLsbD 2)
  lsLat := v.getLsbD 1
  lsPwm := v.getLsbD 0

/-- A fully off phase as reset leaves it: `{1, ~HS_ON_LEVEL, 1, 1, 0}` (70_reset_and_hazards.md R180). -/
def PhaseOut.allOff (onLevel : Bool) : PhaseOut where
  hsDir := .output
  hsLat := !onLevel
  lsDir := .output
  lsLat := true
  lsPwm := false

/-- `out[A]`, `out[B]`, `out[C]`: 15 bits (10_state.md R20). -/
structure Outputs where
  a : PhaseOut
  b : PhaseOut
  c : PhaseOut
  deriving DecidableEq, Repr, Inhabited

/-- Read `out[p]`. -/
def Outputs.get (o : Outputs) : Phase → PhaseOut
  | .a => o.a
  | .b => o.b
  | .c => o.c

/-- Write `out[p]`. -/
def Outputs.set (o : Outputs) (p : Phase) (v : PhaseOut) : Outputs :=
  match p with
  | .a => { o with a := v }
  | .b => { o with b := v }
  | .c => { o with c := v }

/-- One value on every phase. -/
def Outputs.uniform (v : PhaseOut) : Outputs := ⟨v, v, v⟩

/-- The outputs reset leaves: all off, or a draw for every field (R180, R181). `instant` tells the draws of different resets
apart. -/
def Outputs.afterReset (cfg : Config) (instant : Nat) : Outputs :=
  if cfg.resetOutputsKnown then Outputs.uniform (PhaseOut.allOff cfg.hsOnLevel)
  else
    { a := PhaseOut.unpack (Config.resetDraw instant .a)
      b := PhaseOut.unpack (Config.resetDraw instant .b)
      c := PhaseOut.unpack (Config.resetDraw instant .c) }

/-- The five kinds of micro-op, each on one phase (40_phase_driver.md R100; 00_scope.md R11). -/
inductive MicroOp
  /-- High side on. -/
  | eh (p : Phase)
  /-- High side off. -/
  | dh (p : Phase)
  /-- Connect `LS_p` to `PWM_p`. -/
  | el (p : Phase)
  /-- Pre-drive `LS_p` to its off level. -/
  | dl1 (p : Phase)
  /-- Release `LS_p` from `PWM_p`. -/
  | dl2 (p : Phase)
  deriving DecidableEq, Repr, Inhabited

/-- The phase a micro-op acts on. -/
def MicroOp.phase : MicroOp → Phase
  | .eh p => p
  | .dh p => p
  | .el p => p
  | .dl1 p => p
  | .dl2 p => p

/-- Whether a micro-op turns a switch on (41_commutation_engine.md R128: the enables of a plan). -/
def MicroOp.isEnable : MicroOp → Bool
  | .eh _ => true
  | .el _ => true
  | .dh _ => false
  | .dl1 _ => false
  | .dl2 _ => false

/-- Whether a micro-op writes the high-side pin's fields (20_memory.md R53). -/
def MicroOp.isHighSide : MicroOp → Bool
  | .eh _ => true
  | .dh _ => true
  | .el _ => false
  | .dl1 _ => false
  | .dl2 _ => false

/-- The fields a micro-op writes in its phase; `onLevel` is `HS_ON_LEVEL` (40_phase_driver.md R100). -/
def MicroOp.write (onLevel : Bool) (m : MicroOp) (o : PhaseOut) : PhaseOut :=
  match m with
  | .eh _ => { o with hsDir := .output, hsLat := onLevel }
  | .dh _ => { o with hsDir := .output, hsLat := !onLevel }
  | .el _ => { o with lsPwm := true }
  | .dl1 _ => { o with lsDir := .output, lsLat := true }
  | .dl2 _ => { o with lsPwm := false }

/-- Perform a micro-op: one atomic write to one phase (40_phase_driver.md R100; 20_memory.md R53). -/
def MicroOp.perform (onLevel : Bool) (m : MicroOp) (o : Outputs) : Outputs :=
  o.set m.phase (m.write onLevel (o.get m.phase))

/-- Perform a list of micro-ops in list order (20_memory.md R57). -/
def performAll (onLevel : Bool) (ms : List MicroOp) (o : Outputs) : Outputs :=
  ms.foldl (fun o m => m.perform onLevel o) o

end Sys2Proof.Machine
end

