-- ==== Sys2Proof/Machine/Turn.lean ====
section
/-! DEFINITION. The steps the agents can take (00_scope.md R8, 30_encoding.md R71, 60_exceptions.md R161, R167), as plain data
that State lists in the order in which they are taken (log 1). -/

namespace Sys2Proof.Machine

/-- What a foreign writer may write (60_exceptions.md R161, FOREIGN_WRITER). -/
inductive ForeignTarget
  /-- The high-side pin `HS_p`. -/
  | hsPin (p : Phase)
  /-- The low-side pin `LS_p`. -/
  | lsPin (p : Phase)
  /-- The PWM selection of `LS_p`. -/
  | pwmSelect (p : Phase)
  deriving DecidableEq, Repr, Inhabited

/-- One step of one agent. -/
inductive Turn
  /-- HOST: `cmd_valid = 1` with `w` on `cmd` (30_encoding.md R71). -/
  | host (w : CmdWord)
  /-- SEQ: the next micro-op, if there is one (41_commutation_engine.md R130). -/
  | seq
  /-- ENV: `hall_in <- v` (20_memory.md R63). -/
  | hall (v : Nat)
  /-- ENV: the PWM channels draw new levels (60_exceptions.md R167). -/
  | pwm
  /-- The `rst` port is asserted (70_reset_and_hazards.md R180). -/
  | rst
  /-- An agent outside the block writes a pin or the PWM selection (20_memory.md R58). -/
  | foreign (target : ForeignTarget) (level : Bool)
  deriving DecidableEq, Repr, Inhabited

end Sys2Proof.Machine
end

