-- ==== Sys2Proof/Machine/State.lean ====
section
/-! DEFINITION. The state (10_state.md R20), the reasons a step can stop, and the state right after reset
(70_reset_and_hazards.md R180; 10_state.md R38). -/

namespace Sys2Proof.Machine

/-- Why the machine stops with a fault: never. The block has no fault mechanism (60_exceptions.md R160), so there is no
constructor. -/
inductive Fault
  deriving DecidableEq, Repr

/-- Why the model gives a step no meaning. The other reasons of 60_exceptions.md R161 set the `refused` mark and the run goes
on, so they are next states (log 4). -/
inductive Refusal
  /-- Raised by `exec`'s arm of an instruction that has no meaning yet; safe (nothing can be proved of it). No arm raises it. -/
  | notModelled (mnemonic : String)
  /-- Raised by `start`, `step` and every meaning when the configuration breaks a constraint: BAD_CONFIG, "a model must refuse
  to start" (00_scope.md R7); safe. -/
  | badConfig
  deriving DecidableEq, Repr

/-- The state. `cfg`, `hallIn` and `turns` are what the step relation reads beside the block's own state (10_state.md R20);
`reason` and `instant` are the model's own (logs 4, 5). -/
structure State where
  /-- The parameters of the build; no step writes them (00_scope.md R6; log 2). -/
  cfg : Config
  /-- The Phase Driver output state `out[p]` (10_state.md R24). -/
  out : Outputs
  /-- `seq.plan`, the micro-ops latched at acceptance (10_state.md R22). -/
  seqPlan : List MicroOp
  /-- `seq.step`, the index of the next micro-op (10_state.md R22). -/
  seqStep : Nat
  /-- The sticky mark `refused` (10_state.md R32). -/
  refused : Bool
  /-- The reason the latest refusal reported (60_exceptions.md R161, R164; log 4). -/
  reason : Option RefusedReason
  /-- The Hall input register, `W_IN` bits (10_state.md R29). -/
  hallIn : Nat
  /-- The steps the agents have yet to take, in order (00_scope.md R8; log 1). -/
  turns : List Turn
  /-- Which instant it is: the argument of the free values (log 5). -/
  instant : Nat
  deriving DecidableEq, Repr

/-- The state in which a run of a build starts: the reset that starts a run (70_reset_and_hazards.md R180, R181; 10_state.md
R38). `hall_in` "has no reset value in the block" (10_state.md R29): 0 is a DESIGN CHOICE (log 3). -/
def State.initial (cfg : Config) : State where
  cfg := cfg
  out := Outputs.afterReset cfg 0
  seqPlan := []
  seqStep := 0
  refused := false
  reason := none
  hallIn := 0
  turns := []
  instant := 0

/-- The machine right after reset, with the default parameters (00_scope.md R6). -/
def State.reset : State := State.initial Config.default

end Sys2Proof.Machine
end

