-- ==== Sys2Proof/Machine/Flags.lean ====
section
/-! DEFINITION. The bits and predicates derived from the state: `busy` (10_state.md R22), the pin levels (R25, R26), the
may-conduct predicates (R34), the logical phase state (R35), `CI` and `ALLOFF` (R36). The block sets no flag (R23). -/

namespace Sys2Proof.Machine

/-- `busy := seq.step < length(seq.plan)` (10_state.md R22). -/
def State.busy (s : State) : Bool := decide (s.seqStep < s.seqPlan.length)

/-- The level of a pin: floating and unknown, or driven (10_state.md R25). -/
inductive PinLevel
  | z
  | driven (level : Bool)
  deriving DecidableEq, Repr, Inhabited

/-- `hs_level(p)` (R25). That an input pin floats is the spec's general knowledge (item G2). -/
def PhaseOut.hsLevel (o : PhaseOut) : PinLevel :=
  match o.hsDir with
  | .output => .driven o.hsLat
  | .input => .z

/-- `ls_level(p)`, `wave` being the level channel `PWM_p` drives at this instant (R26). -/
def PhaseOut.lsLevel (wave : Bool) (o : PhaseOut) : PinLevel :=
  if o.lsPwm then .driven wave
  else
    match o.lsDir with
    | .output => .driven o.lsLat
    | .input => .z

/-- The high-side switch as its pin leaves it (R25). -/
inductive HighSwitch
  | on
  | off
  | undetermined
  deriving DecidableEq, Repr, Inhabited

/-- The switch is on at `HS_ON_LEVEL`, off at the other level, undetermined when the pin floats (R25). -/
def PhaseOut.highSwitch (onLevel : Bool) (o : PhaseOut) : HighSwitch :=
  match o.hsLevel with
  | .driven l => if l = onLevel then .on else .off
  | .z => .undetermined

/-- The low-side switch as its pin leaves it (R26). -/
inductive LowSwitch
  | enabled
  | disabled
  | staticallyOn
  | undetermined
  deriving DecidableEq, Repr, Inhabited

/-- The low-side switch, active-low (R26). -/
def PhaseOut.lowSwitch (o : PhaseOut) : LowSwitch :=
  if o.lsPwm then .enabled
  else
    match o.lsDir with
    | .output => if o.lsLat then .disabled else .staticallyOn
    | .input => .undetermined

/-- `high_may_on(p)` (R34). -/
def PhaseOut.highMayOn (onLevel : Bool) (o : PhaseOut) : Bool :=
  o.hsDir == .input || o.hsLat == onLevel

/-- `low_may_on(p)` (R34). -/
def PhaseOut.lowMayOn (o : PhaseOut) : Bool :=
  o.lsPwm || o.lsDir == .input || !o.lsLat

/-- `high(p)` of the logical phase state (R35). -/
def PhaseOut.high (onLevel : Bool) (o : PhaseOut) : HighSwitch :=
  if o.hsDir = .output ∧ o.hsLat = onLevel then .on
  else if o.highMayOn onLevel = false then .off
  else .undetermined

/-- The low-side half of the logical phase state (R35). -/
inductive LowState
  | enabled
  | disabled
  | undetermined
  deriving DecidableEq, Repr, Inhabited

/-- `low(p)` of the logical phase state (R35). -/
def PhaseOut.low (o : PhaseOut) : LowState :=
  if o.lsPwm then .enabled else if o.lowMayOn = false then .disabled else .undetermined

/-- A phase is active when its high side is on or its low side enabled (R35). -/
def PhaseOut.active (onLevel : Bool) (o : PhaseOut) : Bool :=
  o.high onLevel == .on || o.low == .enabled

/-- A phase is fully off (R35). -/
def PhaseOut.fullyOff (onLevel : Bool) (o : PhaseOut) : Bool :=
  o.high onLevel == .off && o.low == .disabled

/-- How many phases meet a test. -/
def Outputs.count (o : Outputs) (test : PhaseOut → Bool) : Nat :=
  Phase.all.countP fun p => test (o.get p)

/-- Whether every phase meets a test. -/
def Outputs.every (o : Outputs) (test : PhaseOut → Bool) : Bool :=
  Phase.all.all fun p => test (o.get p)

/-- The commutation invariant `CI(out)`, its five items in order (R36). Item 5 says that the phase that is neither the source
nor the sink is fully off. -/
def Outputs.commutationInvariant (onLevel : Bool) (o : Outputs) : Bool :=
  o.every (fun x => x.high onLevel != .undetermined && x.low != .undetermined)
    && o.every (fun x => !(x.high onLevel == .on && x.low == .enabled))
    && o.count (fun x => x.high onLevel == .on) == 1
    && o.count (fun x => x.low == .enabled) == 1
    && o.count (fun x => x.fullyOff onLevel) == 1

/-- `ALLOFF(out)`: every phase is fully off (R36). -/
def Outputs.allOff (onLevel : Bool) (o : Outputs) : Bool := o.every (·.fullyOff onLevel)

/-- `hs_level(p)` of a state. -/
def State.hsLevel (s : State) (p : Phase) : PinLevel := (s.out.get p).hsLevel

/-- `ls_level(p)` of a state: `pwm_wave[p]` is the draw of this instant (R26, R30). -/
def State.lsLevel (s : State) (p : Phase) : PinLevel := (s.out.get p).lsLevel (Config.pwmDraw s.instant p)

end Sys2Proof.Machine
end

