-- ==== Sys2Proof/Machine/Operands.lean ====
section
/-! DEFINITION. The operand COMMUTATE reads: the Hall-code decoder (41_commutation_engine.md R120) and the sector mapper
(R122). -/

namespace Sys2Proof

namespace Config

/-- `HALL_MASK`, `W_IN` bits (R120). -/
def hallMask (cfg : Config) : BitVec cfg.wIn :=
  BitVec.twoPow cfg.wIn cfg.hallPosA ||| BitVec.twoPow cfg.wIn cfg.hallPosB ||| BitVec.twoPow cfg.wIn cfg.hallPosC

/-- `masked(v) = v & HALL_MASK` (R120). -/
def masked (cfg : Config) (v : BitVec cfg.wIn) : BitVec cfg.wIn := v &&& cfg.hallMask

/-- `code(v) = {v[HALL_POS_C], v[HALL_POS_B], v[HALL_POS_A]}`, the Hall Code (R120). -/
def hallCode (cfg : Config) (v : BitVec cfg.wIn) : BitVec 3 :=
  BitVec.ofBool (v.getLsbD cfg.hallPosC) ++ BitVec.ofBool (v.getLsbD cfg.hallPosB) ++ BitVec.ofBool (v.getLsbD cfg.hallPosA)

/-- The Sector Index 3 bits stand for (R124). The value 7 "is never produced, because of the ROM invariant" (R124): no
configuration that holds it passes the check of 00_scope.md R7, which every meaning makes first. -/
def sectorOfBits (v : BitVec 3) : SectorIndex :=
  if v = 1 then .sector .s1
  else if v = 2 then .sector .s2
  else if v = 3 then .sector .s3
  else if v = 4 then .sector .s4
  else if v = 5 then .sector .s5
  else if v = 6 then .sector .s6
  else .invalid

/-- `SectorOf(c) = ROMRead(c)` (R122). -/
def sectorOf (cfg : Config) (c : BitVec 3) : SectorIndex := sectorOfBits (cfg.romRead c)

/-- `TABLE[s]`, the source's Sector Table: the Hall Code of a sector (R122). -/
def tableEntry (cfg : Config) (s : Sector) : Option (BitVec 3) :=
  validCodes.find? fun c => cfg.romRead c == s.index

/-- `scan(c)`: the source's scan of the Sector Table (R122). -/
def scan (cfg : Config) (c : BitVec 3) : SectorIndex :=
  match Sector.all.find? fun s => cfg.tableEntry s == some c with
  | some s => .sector s
  | none => .invalid

end Config

/-- `InRead()`: one atomic sample of all `W_IN` bits (20_memory.md R52). -/
def Machine.State.inRead (s : Machine.State) : BitVec s.cfg.wIn := BitVec.ofNat s.cfg.wIn s.hallIn

/-- The sector of the sample COMMUTATE takes (41_commutation_engine.md R134). -/
def Machine.State.sampledSector (s : Machine.State) : SectorIndex := s.cfg.sectorOf (s.cfg.hallCode s.inRead)

end Sys2Proof
end

