-- ==== Sys2Proof/Machine/Ops.lean ====
section
/-! DEFINITION. The shared operations: the updates of State, targets and plans (41_commutation_engine.md R126 to R129;
40_phase_driver.md R105), acceptance and refusal (41_commutation_engine.md R131; 60_exceptions.md R161), the SEQ's step
(41_commutation_engine.md R130), the ENV's step and reset (70_reset_and_hazards.md R180). The block takes no exception and
returns from none (60_exceptions.md R160, R165). -/

namespace Sys2Proof

/-- What a target asks of one phase: its high side on, its low-side PWM enabled (41_commutation_engine.md R126). -/
structure PhaseTarget where
  high : Bool
  low  : Bool
  deriving DecidableEq, Repr, Inhabited

/-- The phase state a plan drives towards (00_scope.md R14). -/
structure Target where
  a : PhaseTarget
  b : PhaseTarget
  c : PhaseTarget
  deriving DecidableEq, Repr, Inhabited

/-- What a target asks of phase `p`. -/
def Target.get (t : Target) : Phase → PhaseTarget
  | .a => t.a
  | .b => t.b
  | .c => t.c

/-- `TGT_OFF` (41_commutation_engine.md R127). -/
def Target.allOff : Target := ⟨⟨false, false⟩, ⟨false, false⟩, ⟨false, false⟩⟩

/-- What sector `s` asks of phase `p`: `high = (p == src(s))`, `low = (p == snk(s))` (41_commutation_engine.md R126). -/
def Config.phaseTarget (cfg : Config) (s : Sector) (p : Phase) : PhaseTarget := ⟨p == cfg.src s, p == cfg.snk s⟩

/-- `TGT(s)` of a Sector Index; `TGT(INVALID) = TGT_OFF` (41_commutation_engine.md R126, R127). -/
def Config.target (cfg : Config) : SectorIndex → Target
  | .sector s => ⟨cfg.phaseTarget s .a, cfg.phaseTarget s .b, cfg.phaseTarget s .c⟩
  | .invalid => Target.allOff

namespace Machine

/-- The disables of one phase: the high side before the low side (41_commutation_engine.md R128). -/
def disablesOf (t : Target) (p : Phase) : List MicroOp :=
  (if (t.get p).high then [] else [.dh p]) ++ (if (t.get p).low then [] else [.dl1 p, .dl2 p])

/-- The disables of a plan, phase by phase (R128). -/
def disables (t : Target) : List MicroOp := Phase.all.flatMap (disablesOf t)

/-- The enables of a plan: the high sides, then the low sides (R128). -/
def enables (t : Target) : List MicroOp :=
  (Phase.all.filter fun p => (t.get p).high).map .eh ++ (Phase.all.filter fun p => (t.get p).low).map .el

/-- `PLAN(t)`: every disable before every enable (R128). -/
def plan (t : Target) : List MicroOp := disables t ++ enables t

/-- The kinds of primitive command (40_phase_driver.md R105). -/
inductive PrimKind
  | enableHigh
  | disableHigh
  | enableLowPwm
  | disableLowPwm
  deriving DecidableEq, Repr, Inhabited

/-- `PRIM(k, p)` (40_phase_driver.md R105). -/
def primPlan (k : PrimKind) (p : Phase) : List MicroOp :=
  match k with
  | .enableHigh => [.eh p]
  | .disableHigh => [.dh p]
  | .enableLowPwm => [.el p]
  | .disableLowPwm => [.dl1 p, .dl2 p]

/-- Write the outputs. -/
def State.withOut (s : State) (o : Outputs) : State := { s with out := o }

/-- Write the sequencer: `seq.plan` and `seq.step`. -/
def State.withSeq (s : State) (ms : List MicroOp) (k : Nat) : State := { s with seqPlan := ms, seqStep := k }

/-- Write the Hall input register. -/
def State.withHall (s : State) (v : Nat) : State := { s with hallIn := v }

/-- `raise Refused(reason)`: set the sticky mark, change no other field of the block (60_exceptions.md R161; log 4). -/
def State.raise (s : State) (r : RefusedReason) : State := { s with refused := true, reason := some r }

/-- A new instant, the pending turn taken off the list (logs 1, 5). -/
def State.nextInstant (s : State) : State := { s with turns := s.turns.tail, instant := s.instant + 1 }

/-- Accept a command with a plan: latch the plan, perform none of it (41_commutation_engine.md R131). A malformed configuration
has no meaning (00_scope.md R7); a command presented while busy is refused (R131). -/
def accept (ms : List MicroOp) (s : State) : Host.Outcome State Fault Refusal :=
  if s.cfg.wellFormed = false then .refused .badConfig
  else if s.busy then .next (s.raise .busy)
  else .next (s.withSeq ms 0)

/-- The SEQ's step: perform the next micro-op and advance; no step when idle (41_commutation_engine.md R130). -/
def seqTurn (s : State) : State :=
  match s.seqPlan[s.seqStep]? with
  | some m => (s.withOut (m.perform s.cfg.hsOnLevel s.out)).withSeq s.seqPlan (s.seqStep + 1)
  | none => s

/-- The ENV's step on the Hall input: `W_IN` bits of the value (20_memory.md R63). -/
def hallTurn (v : Nat) (s : State) : State := s.withHall (v % 2 ^ s.cfg.wIn)

/-- `rst` asserted during a run: the plan in progress is abandoned, the outputs take their reset values, `refused` stays
(70_reset_and_hazards.md R180, R181). -/
def resetTurn (s : State) : State := (s.withOut (Outputs.afterReset s.cfg s.instant)).withSeq [] 0

end Machine

end Sys2Proof
end

