-- ==== Sys2Proof/Machine/Engine.lean ====
section
/-! DEFINITION. The Commutation Engine's commands (41_commutation_engine.md R132 to R134). -/

namespace Sys2Proof.Machine

/-- `ACTIVATE_SECTOR x`: plan `PLAN(TGT(x))`; `hall_in` is not read (R132). -/
def execActivateSector (x : Sector) (s : State) : Host.Outcome State Fault Refusal :=
  accept (plan (s.cfg.target (.sector x))) s

/-- `ALL_OFF`: plan `PLAN(TGT_OFF)`; `hall_in` is not read (R133). -/
def execAllOff (s : State) : Host.Outcome State Fault Refusal := accept (plan Target.allOff) s

/-- `COMMUTATE`: one sample of `hall_in`, its Hall Code, its sector or INVALID, and that target's plan (R134). -/
def execCommutate (s : State) : Host.Outcome State Fault Refusal :=
  accept (plan (s.cfg.target (s.cfg.sectorOf (s.cfg.hallCode s.inRead)))) s

end Sys2Proof.Machine
end

