-- ==== Sys2Proof/Machine/PhaseDriver.lean ====
section
/-! DEFINITION. The Phase Driver primitives as commands (40_phase_driver.md R101 to R105). Each is accepted with its plan; the
micro-ops are the SEQ's steps after it, and read nothing and check nothing (R100). -/

namespace Sys2Proof.Machine

/-- `ENABLE_HIGH p`: plan `[EH(p)]` (R101). -/
def execEnableHigh (p : Phase) (s : State) : Host.Outcome State Fault Refusal := accept (primPlan .enableHigh p) s

/-- `DISABLE_HIGH p`: plan `[DH(p)]` (R102). -/
def execDisableHigh (p : Phase) (s : State) : Host.Outcome State Fault Refusal := accept (primPlan .disableHigh p) s

/-- `ENABLE_LOW_PWM p`: plan `[EL(p)]` (R103). -/
def execEnableLowPwm (p : Phase) (s : State) : Host.Outcome State Fault Refusal := accept (primPlan .enableLowPwm p) s

/-- `DISABLE_LOW_PWM p`: plan `[DL1(p), DL2(p)]`, in this order (R104). -/
def execDisableLowPwm (p : Phase) (s : State) : Host.Outcome State Fault Refusal := accept (primPlan .disableLowPwm p) s

end Sys2Proof.Machine
end

