-- ==== Sys2Proof/Machine/Dispatch.lean ====
section
/-! DEFINITION. One arm per command: what its acceptance does (41_commutation_engine.md R131). -/

namespace Sys2Proof.Machine

def exec (i : Instr) (s : State) : Host.Outcome State Fault Refusal :=
  match i with
  | .commutate => Sys2Proof.Machine.execCommutate s
  | .allOff => Sys2Proof.Machine.execAllOff s
  | .activateSector x => Sys2Proof.Machine.execActivateSector x s
  | .enableHigh p => Sys2Proof.Machine.execEnableHigh p s
  | .disableHigh p => Sys2Proof.Machine.execDisableHigh p s
  | .enableLowPwm p => Sys2Proof.Machine.execEnableLowPwm p s
  | .disableLowPwm p => Sys2Proof.Machine.execDisableLowPwm p s

end Sys2Proof.Machine
end

