-- ==== Sys2Proof/Machine/Agents.lean ====
section
/-! DEFINITION. The agents' steps (00_scope.md R8): the HOST's issue (41_commutation_engine.md R131), the turn that is taken,
and the start of a run (00_scope.md R7). -/

namespace Sys2Proof.Machine

/-- HOST `issue(w)`: BUSY first, then the decoder's defects, then the command (41_commutation_engine.md R131; 60_exceptions.md
R164). -/
def issue (w : CmdWord) (s : State) : Host.Outcome State Fault Refusal :=
  if s.busy then .next (s.raise .busy)
  else
    match decode w with
    | .error r => .next (s.raise r)
    | .ok i => exec i s

/-- What one turn does. The PWM draw changes no field of the block (60_exceptions.md R164); a foreign write is refused (R161). -/
def takeTurn (t : Turn) (s : State) : Host.Outcome State Fault Refusal :=
  match t with
  | .host w => issue w s
  | .seq => .next (seqTurn s)
  | .hall v => .next (hallTurn v s)
  | .pwm => .next s
  | .rst => .next (resetTurn s)
  | .foreign _ _ => .next (s.raise .foreignWriter)

/-- The turn a state takes next: the first one pending, or the SEQ's when none is, so that an enabled SEQ always steps in the end
(70_reset_and_hazards.md R192; log 1). -/
def State.nextTurn (s : State) : Turn :=
  match s.turns with
  | t :: _ => t
  | [] => .seq

/-- One step: a new instant begins and the next turn is taken in it. A malformed configuration does not run (00_scope.md R7). -/
def advance (s : State) : Host.Outcome State Fault Refusal :=
  if s.cfg.wellFormed = false then .refused .badConfig else takeTurn s.nextTurn s.nextInstant

/-- The start of a run of a build: refused when the configuration is malformed (00_scope.md R7; 60_exceptions.md R161). -/
def start (cfg : Config) : Host.Outcome State Fault Refusal :=
  if cfg.wellFormed = false then .refused .badConfig else .next (State.initial cfg)

end Sys2Proof.Machine
end

