-- ==== Sys2Proof/Machine/Step.lean ====
section
/-! DEFINITION. The step, and how a command word comes to be the next one. -/

namespace Sys2Proof.Machine

/-- One step of the machine: the next agent's turn (00_scope.md R8). -/
def step (s : State) : Host.Outcome State Fault Refusal := advance s

/-- The block fetches nothing: a command arrives on the port (20_memory.md R61). The word is put in front of the turns the agents
have yet to take, so that the very next step is the HOST's presenting it (log 8). -/
def State.withFetchWord (s : State) (nbits w : Nat) : State :=
  { s with turns := .host (BitVec.ofNat 8 (w % 2 ^ nbits)) :: s.turns }

end Sys2Proof.Machine
end

