-- ==== Sys2Proof/Safety.lean ====
section
/-! DEFINITION. What counts as safe (70_reset_and_hazards.md R183), as a run that keeps safe (R184), and the premises under which
a claim about a command is judged (60_exceptions.md R173). -/

namespace Sys2Proof.Machine

/-- `SAFE(out)` (70_reset_and_hazards.md R183): (S1) no half-bridge may conduct both ways, (S2) at most one high side may conduct,
(S3) at most one low side may conduct. -/
def Outputs.safe (onLevel : Bool) (o : Outputs) : Bool :=
  o.every (fun x => !(x.highMayOn onLevel && x.lowMayOn))
    && decide (o.count (·.highMayOn onLevel) ≤ 1)
    && decide (o.count (·.lowMayOn) ≤ 1)

/-- `on(S)` of 70_reset_and_hazards.md R184 does not grow from `o` to `o'`. -/
def Outputs.addsNoSwitch (onLevel : Bool) (o o' : Outputs) : Prop :=
  ∀ p, ((o'.get p).highMayOn onLevel = true → (o.get p).highMayOn onLevel = true)
    ∧ ((o'.get p).lowMayOn = true → (o.get p).lowMayOn = true)

/-- The micro-ops the SEQ has yet to perform. -/
def State.pending (s : State) : List MicroOp := s.seqPlan.drop s.seqStep

/-- The outputs are safe now and after each micro-op that is yet to come. -/
def State.staysSafe (s : State) : Prop :=
  ∀ k, (performAll s.cfg.hsOnLevel (s.pending.take k) s.out).safe s.cfg.hsOnLevel = true

/-- The quiescent states (60_exceptions.md R173). -/
def State.quiescent (s : State) : Bool := !s.busy

/-- Whether a command is one of the Commutation Engine's, whose plans keep `SAFE`; those of the primitives need not
(70_reset_and_hazards.md R184, R191). -/
def engineCommand : Instr → Bool
  | .commutate => true
  | .allOff => true
  | .activateSector _ => true
  | .enableHigh _ => false
  | .disableHigh _ => false
  | .enableLowPwm _ => false
  | .disableLowPwm _ => false

/-- The HOST keeps its duty of R191 in this turn: it presents no primitive command. -/
def Turn.keepsDuty : Turn → Bool
  | .host w =>
    match decode w with
    | .ok i => engineCommand i
    | .error _ => true
  | .seq => true
  | .hall _ => true
  | .pwm => true
  | .rst => true
  | .foreign _ _ => true

/-- The machine's own invariant: a well-formed build, a plan of at most 9 micro-ops, `seq.step` within it (10_state.md R22), and a
Hall input register of `W_IN` bits (10_state.md R29). -/
structure State.Inv (s : State) : Prop where
  config : s.cfg.wellFormed = true
  planShort : s.seqPlan.length ≤ 9
  stepInPlan : s.seqStep ≤ s.seqPlan.length
  hallFits : s.hallIn < 2 ^ s.cfg.wIn

/-- The reachable-state invariant of 10_state.md R37: every pin an output, every low-side latch at its off level. -/
def Outputs.pinsDriven (o : Outputs) : Prop :=
  ∀ p, (o.get p).hsDir = .output ∧ (o.get p).lsDir = .output ∧ (o.get p).lsLat = true

/-- How many of the five fields of a phase differ. -/
def PhaseOut.fieldsChanged (x y : PhaseOut) : Nat :=
  [x.hsDir != y.hsDir, x.hsLat != y.hsLat, x.lsDir != y.lsDir, x.lsLat != y.lsLat, x.lsPwm != y.lsPwm].count true

/-- How many of the 15 output fields differ. -/
def Outputs.fieldsChanged (o o' : Outputs) : Nat := (Phase.all.map fun p => (o.get p).fieldsChanged (o'.get p)).sum

/-- The premises under which a claim about a command that started in `s` and ended in `t` is judged (60_exceptions.md R173). A
foreign writer's step sets `refused`, so that no foreign writer acted follows. -/
def claimPremises (s t : State) : Prop := s.quiescent = true ∧ t.quiescent = true ∧ t.refused = false

end Sys2Proof.Machine
end

