-- ==== Sys2Proof/Certificates/Slice0/Obligations.lean ====
section
/-! DEFINITION. The statements for the provers. Each docstring names the rules of spec/ it formalises; where a rule is marked there
as a decision of the spec (D<n>) or as derived, the docstring says so. -/

open Sys2Proof Sys2Proof.Machine

/-! ### Encoding and decoding -/

/-- Words written out bit by bit from 30_encoding.md R72 (the spec's decisions D2, D3) decode to the commands they stand for. -/
def Obligations.WrittenOutWordsDecode : Prop :=
  decode 0b00010000 = .ok .commutate ∧ decode 0b00100000 = .ok .allOff
    ∧ decode 0b00110001 = .ok (.activateSector .s1) ∧ decode 0b00110110 = .ok (.activateSector .s6)
    ∧ decode 0b01000000 = .ok (.enableHigh .a) ∧ decode 0b01000010 = .ok (.enableHigh .c)
    ∧ decode 0b01010001 = .ok (.disableHigh .b) ∧ decode 0b01100010 = .ok (.enableLowPwm .c)
    ∧ decode 0b01110000 = .ok (.disableLowPwm .a)

/-- Decoder and encoder are inverse: a word decodes to a command exactly when it is that command's word, for every word and every
command with every operand (30_encoding.md R72, R76; decisions D2, D15). -/
def Obligations.DecodeAndEncodeAreInverse : Prop :=
  ∀ (w : CmdWord) (i : Instr), decode w = .ok i ↔ w = encode i

/-- The decoder reports the first defect in the order of 30_encoding.md R76, for the words R74 lists; a word without a defect is a
command; no other reason is the decoder's (decisions D2, D15). -/
def Obligations.DecoderReportsTheFirstDefect : Prop :=
  ∀ w : CmdWord,
    (decode w = .error .reservedOpcode ↔ w.extractLsb' 4 4 = 0x0 ∨ 0x8 ≤ w.extractLsb' 4 4)
    ∧ (decode w = .error .nonzeroReservedBits ↔
        w.extractLsb' 4 4 ≠ 0x0 ∧ w.extractLsb' 4 4 < 0x8 ∧
          (w.getLsbD 3 = true ∨ (w.extractLsb' 4 4 ≤ 0x2 ∧ w.extractLsb' 0 3 ≠ 0) ∨ (0x4 ≤ w.extractLsb' 4 4 ∧ w.getLsbD 2 = true)))
    ∧ (decode w = .error .badPhase ↔
        0x4 ≤ w.extractLsb' 4 4 ∧ w.extractLsb' 4 4 < 0x8 ∧ w.getLsbD 3 = false ∧ w.extractLsb' 0 3 = 0b011)
    ∧ (decode w = .error .badSector ↔
        w.extractLsb' 4 4 = 0x3 ∧ w.getLsbD 3 = false ∧ (w.extractLsb' 0 3 = 0b000 ∨ w.extractLsb' 0 3 = 0b111))
    ∧ ((∃ i, decode w = .ok i) ↔ (Cmd8.ofWord w).wellFormed = true)
    ∧ decode w ≠ .error .busy ∧ decode w ≠ .error .badConfig ∧ decode w ≠ .error .foreignWriter

/-- Exactly the 20 words 30_encoding.md R72 lists are legal (decisions D2, D3). -/
def Obligations.TwentyWordsAreLegal : Prop :=
  ((List.range 256).filter fun n => (decode (BitVec.ofNat 8 n)).toOption.isSome)
    = [0x10, 0x20, 0x31, 0x32, 0x33, 0x34, 0x35, 0x36, 0x40, 0x41, 0x42, 0x50, 0x51, 0x52, 0x60, 0x61, 0x62, 0x70, 0x71, 0x72]

/-! ### Reset, and the start of a run -/

/-- What the reset that starts a run leaves, in the default build: every phase packed `10110`, the sequencer idle, the mark clear
(70_reset_and_hazards.md R180, 10_state.md R24, R38; the spec's decision D16). -/
def Obligations.ResetStateIsAllOffAndIdle : Prop :=
  (∀ p, (State.reset.out.get p).pack = 0b10110#5) ∧ State.reset.seqPlan = [] ∧ State.reset.seqStep = 0
    ∧ State.reset.busy = false ∧ State.reset.refused = false ∧ State.reset.cfg = Config.default

/-- A run of any build: refused with BAD_CONFIG when a parameter breaks its constraint, else it starts idle, with the mark clear, and
with `RESET_OUTPUTS_KNOWN` every phase is `(1, ~HS_ON_LEVEL, 1, 1, 0)` (00_scope.md R7, 70_reset_and_hazards.md R180; decisions D16, D28;
that refusing to start is the outcome `refused badConfig`, with no mark shown, is log 10). -/
def Obligations.RunStartsOnlyInWellFormedBuild : Prop :=
  ∀ cfg : Config,
    (cfg.wellFormed = false → start cfg = .refused .badConfig)
    ∧ (cfg.wellFormed = true → ∃ s, start cfg = .next s ∧ s.cfg = cfg ∧ s.seqPlan = [] ∧ s.seqStep = 0 ∧ s.refused = false
        ∧ (cfg.resetOutputsKnown = true → ∀ p, s.out.get p =
            { hsDir := .output, hsLat := !cfg.hsOnLevel, lsDir := .output, lsLat := true, lsPwm := false }))

/-- In a state whose configuration is malformed, every step and every command answers `refused badConfig`. 00_scope.md R7 and
decision D28 say only that a model refuses to start; that a step and a command of such a state refuse too, and that no mark is set
by it, is the model's own reading (log 10, DEDUCED). -/
def Obligations.MalformedBuildHasNoStep : Prop :=
  ∀ s : State, s.cfg.wellFormed = false →
    step s = .refused .badConfig ∧ ∀ i, exec i s = .refused .badConfig

/-- `rst` during a run abandons the plan, leaves the sequencer idle, keeps the mark and, with `RESET_OUTPUTS_KNOWN`, puts every
phase in its reset value (70_reset_and_hazards.md R180, 10_state.md R32; decisions D16, D29). The model's own choices, which no rule
gives: that it keeps the Hall input (log 3, DESIGN CHOICE) and the model's field `reason` (log 4, DESIGN CHOICE), and that it takes
the first of `turns` (log 1, DESIGN CHOICE); that the build stays is log 2 (DEDUCED). -/
def Obligations.ResetAbandonsThePlanAndKeepsTheMark : Prop :=
  ∀ (s : State) (rest : List Turn), s.cfg.wellFormed = true → s.turns = .rst :: rest →
    ∃ t, step s = .next t ∧ t.seqPlan = [] ∧ t.seqStep = 0 ∧ t.busy = false ∧ t.refused = s.refused ∧ t.reason = s.reason
      ∧ t.cfg = s.cfg ∧ t.hallIn = s.hallIn ∧ t.turns = rest
      ∧ (s.cfg.resetOutputsKnown = true → ∀ p, t.out.get p =
          { hsDir := .output, hsLat := !s.cfg.hsOnLevel, lsDir := .output, lsLat := true, lsPwm := false })

/-! ### Acceptance of each command -/

/-- Each primitive, presented idle, is accepted with its plan; nothing else changes (40_phase_driver.md R101 to R105,
41_commutation_engine.md R131; decisions D3, D12). -/
def Obligations.PrimitiveCommandsLatchTheirPlan : Prop :=
  ∀ (s : State) (p : Phase), s.cfg.wellFormed = true → s.busy = false →
    exec (.enableHigh p) s = .next { s with seqPlan := [.eh p], seqStep := 0 }
    ∧ exec (.disableHigh p) s = .next { s with seqPlan := [.dh p], seqStep := 0 }
    ∧ exec (.enableLowPwm p) s = .next { s with seqPlan := [.el p], seqStep := 0 }
    ∧ exec (.disableLowPwm p) s = .next { s with seqPlan := [.dl1 p, .dl2 p], seqStep := 0 }

/-- Each engine command, presented idle, is accepted with the plan of its target; nothing else changes. COMMUTATE's target is that of
`SECTOR_ROM` at the Hall Code `(v[C], v[B], v[A])` of the input register (41_commutation_engine.md R120, R131 to R134; decisions
D6, D7, D11, D13). -/
def Obligations.EngineCommandsLatchTheirPlan : Prop :=
  ∀ (s : State) (x : Sector), s.cfg.wellFormed = true → s.busy = false →
    exec (.activateSector x) s = .next { s with seqPlan := plan (s.cfg.target (.sector x)), seqStep := 0 }
    ∧ exec .allOff s = .next { s with seqPlan := plan Target.allOff, seqStep := 0 }
    ∧ ∃ idx : SectorIndex,
        idx.bits = s.cfg.romRead (BitVec.ofBool (s.hallIn.testBit s.cfg.hallPosC) ++ BitVec.ofBool (s.hallIn.testBit s.cfg.hallPosB)
          ++ BitVec.ofBool (s.hallIn.testBit s.cfg.hallPosA))
        ∧ exec .commutate s = .next { s with seqPlan := plan (s.cfg.target idx), seqStep := 0 }

/-- COMMUTATE with code `000` or `111` is accepted normally, with no refusal and no exception, and runs the all-off plan: the plan
is latched, and when no other agent acts its nine micro-ops are performed and the block is idle again (60_exceptions.md R162,
41_commutation_engine.md R129, R134, 70_reset_and_hazards.md R192; decisions D11, D22). The model's own: that an empty `turns` gives
every step to the SEQ (log 1, DESIGN CHOICE) and how the word is placed (log 8, DEDUCED). -/
def Obligations.InvalidHallCodeRunsAllOffPlan : Prop :=
  ∀ s : State, s.cfg.wellFormed = true → s.busy = false →
    (s.cfg.hallCode s.inRead = 0b000 ∨ s.cfg.hallCode s.inRead = 0b111) →
    exec .commutate s = .next
      { s with
        seqPlan := [.dh .a, .dl1 .a, .dl2 .a, .dh .b, .dl1 .b, .dl2 .b, .dh .c, .dl1 .c, .dl2 .c]
        seqStep := 0 }
    ∧ (s.turns = [] → ∃ t : State, core.run 10 (s.withFetchWord 8 0x10) = .next t ∧ t.busy = false ∧ t.refused = s.refused
        ∧ t.out = performAll s.cfg.hsOnLevel
            [.dh .a, .dl1 .a, .dl2 .a, .dh .b, .dl1 .b, .dl2 .b, .dh .c, .dl1 .c, .dl2 .c] s.out)

/-- The frame of every command: acceptance writes no output and no input; idle, it keeps the mark and starts the plan at its first
micro-op; busy, it sets the mark and keeps the plan in progress (41_commutation_engine.md R131, 60_exceptions.md R161; decision
D14). The model's own: that a command itself checks BUSY (log 11, DEDUCED), the clauses about its field `reason` (log 4, DESIGN
CHOICE, a field the hardware does not have), and that `turns` (log 1, DESIGN CHOICE), `instant` (log 5, DESIGN CHOICE) and `cfg`
(log 2, DEDUCED) stay. -/
def Obligations.CommandsWriteOnlyTheSequencer : Prop :=
  ∀ (i : Instr) (s t : State), exec i s = .next t →
    t.out = s.out ∧ t.cfg = s.cfg ∧ t.hallIn = s.hallIn ∧ t.turns = s.turns ∧ t.instant = s.instant
      ∧ (s.busy = false → t.refused = s.refused ∧ t.reason = s.reason ∧ t.seqStep = 0 ∧ t.seqPlan ≠ [])
      ∧ (s.busy = true → t.refused = true ∧ t.reason = some .busy ∧ t.seqPlan = s.seqPlan ∧ t.seqStep = s.seqStep)

/-! ### A step -/

/-- A step in which the HOST presents a legal word, idle, runs that word's command in the state whose pending turn is taken and whose
instant has begun; `withFetchWord` puts a word there (41_commutation_engine.md R131, 30_encoding.md R71; `turns` and `instant` are the
model's own, logs 1, 5, 8). -/
def Obligations.StepRunsTheDecodedCommand : Prop :=
  (∀ (s : State) (w : CmdWord) (rest : List Turn) (i : Instr), s.cfg.wellFormed = true → s.busy = false →
    s.turns = .host w :: rest → decode w = .ok i → step s = exec i { s with turns := rest, instant := s.instant + 1 })
  ∧ ∀ (s : State) (i : Instr), s.cfg.wellFormed = true → s.busy = false →
    step (s.withFetchWord 8 (encode i).toNat) = exec i { s with instant := s.instant + 1 }

/-- A word presented while busy, legal or not, is refused with BUSY: the mark is set and no other field of the block changes
(41_commutation_engine.md R131, 60_exceptions.md R161, R164; decision D14). The model's own: that the reason reported is kept in a
field `reason` (log 4, DESIGN CHOICE, a field the hardware does not have), and what becomes of `turns` (log 1, DESIGN CHOICE) and
`instant` (log 5, DESIGN CHOICE); that a refusal is a next state is log 4 (DEDUCED). -/
def Obligations.BusyBlockRefusesEveryWord : Prop :=
  ∀ (s : State) (w : CmdWord) (rest : List Turn), s.cfg.wellFormed = true → s.busy = true → s.turns = .host w :: rest →
    step s = .next { s with refused := true, reason := some .busy, turns := rest, instant := s.instant + 1 }

/-- A word the decoder refuses, presented idle, sets the mark for the decoder's reason and changes no other field of the block; it
is not accepted (30_encoding.md R74, 60_exceptions.md R161; decision D15). The model's own: that the reason reported is kept in a
field `reason` (log 4, DESIGN CHOICE, a field the hardware does not have), and what becomes of `turns` (log 1, DESIGN CHOICE) and
`instant` (log 5, DESIGN CHOICE); that a refusal is a next state is log 4 (DEDUCED). -/
def Obligations.MalformedWordIsNotAccepted : Prop :=
  ∀ (s : State) (w : CmdWord) (rest : List Turn) (r : RefusedReason), s.cfg.wellFormed = true → s.busy = false →
    s.turns = .host w :: rest → decode w = .error r →
    step s = .next { s with refused := true, reason := some r, turns := rest, instant := s.instant + 1 }

/-- The SEQ's step performs the next micro-op and advances `seq.step` by one, in a busy block (41_commutation_engine.md R130;
decision D22; that the SEQ also steps when no turn is pending, and `turns` and `instant`, are the model's choices, logs 1, 5). -/
def Obligations.SeqStepPerformsTheNextMicroOp : Prop :=
  ∀ (s : State) (m : MicroOp), s.cfg.wellFormed = true → s.nextTurn = .seq → s.seqPlan[s.seqStep]? = some m →
    step s = .next
      { s with
        out := m.perform s.cfg.hsOnLevel s.out
        seqStep := s.seqStep + 1
        turns := s.turns.tail
        instant := s.instant + 1 }

/-- An idle block holds its outputs: the SEQ has no step, so its turn changes no field of the block (41_commutation_engine.md R130,
60_exceptions.md R172; decisions D21, D22; that such a turn passes, and `turns` and `instant`, are the model's choices, logs
1, 5). -/
def Obligations.IdleBlockHoldsItsState : Prop :=
  ∀ s : State, s.cfg.wellFormed = true → s.nextTurn = .seq → s.busy = false →
    step s = .next { s with turns := s.turns.tail, instant := s.instant + 1 }

/-- The ENV's steps change no field of the block, busy or not (20_memory.md R63, 60_exceptions.md R164, R167; decisions D13, D18,
D27). The model's own: that the Hall input takes the low `W_IN` bits of the step's value (log 12, DEDUCED), that the draw of the PWM
waveform is a turn which begins a new `instant` (log 5, DESIGN CHOICE), and what becomes of `turns` (log 1, DESIGN CHOICE). -/
def Obligations.EnvironmentChangesNoBlockField : Prop :=
  ∀ (s : State) (rest : List Turn), s.cfg.wellFormed = true →
    (∀ v, s.turns = .hall v :: rest →
      step s = .next { s with hallIn := v % 2 ^ s.cfg.wIn, turns := rest, instant := s.instant + 1 })
    ∧ (s.turns = .pwm :: rest → step s = .next { s with turns := rest, instant := s.instant + 1 })

/-- A foreign writer's step sets the mark and writes no output (60_exceptions.md R161; decisions D14, D15). The model's own: that
there is such a step, refused idle or busy, where 20_memory.md R58 says that a model has no step for another writer (log 9,
DEDUCED); that the reason reported is kept in a field `reason` (log 4, DESIGN CHOICE, a field the hardware does not have); and what
becomes of `turns` (log 1, DESIGN CHOICE) and `instant` (log 5, DESIGN CHOICE). -/
def Obligations.ForeignWriterIsRefused : Prop :=
  ∀ (s : State) (g : ForeignTarget) (l : Bool) (rest : List Turn), s.cfg.wellFormed = true → s.turns = .foreign g l :: rest →
    step s = .next { s with refused := true, reason := some .foreignWriter, turns := rest, instant := s.instant + 1 }

/-! ### Whole-machine rules -/

/-- In a well-formed build every step answers a next state, of the same build: the block has no exception and no other refusal stops
a run, and no step writes a parameter, the sector table among them (60_exceptions.md R160, 10_state.md R31; `turns` and `instant` are the
model's own, logs 1, 5). -/
def Obligations.EveryStepOfWellFormedBuildCompletes : Prop :=
  ∀ s : State, s.cfg.wellFormed = true →
    ∃ t, step s = .next t ∧ t.cfg = s.cfg ∧ t.turns = s.turns.tail ∧ t.instant = s.instant + 1

/-- Only the SEQ and reset write the outputs, and the SEQ writes what the next micro-op writes (20_memory.md R58, 10_state.md R24;
reset's writing them is decision D16). -/
def Obligations.OnlySeqAndResetWriteOutputs : Prop :=
  ∀ s t : State, step s = .next t → t.out ≠ s.out →
    s.nextTurn = .rst
    ∨ (s.nextTurn = .seq ∧ s.busy = true ∧ ∃ m, s.seqPlan[s.seqStep]? = some m ∧ t.out = m.perform s.cfg.hsOnLevel s.out)

/-- What a step can do to the sequencer: nothing; advance by one, in a busy block, by the SEQ; or start at 0 with a new plan, by the
acceptance of a legal word in an idle block or by reset. So acceptance and a SEQ step never coincide (10_state.md R22,
60_exceptions.md R164; decisions D14, D22). -/
def Obligations.SequencerMovesOnlyBySeqAcceptanceOrReset : Prop :=
  ∀ s t : State, step s = .next t →
    (t.seqPlan = s.seqPlan ∧ t.seqStep = s.seqStep)
    ∨ (t.seqPlan = s.seqPlan ∧ t.seqStep = s.seqStep + 1 ∧ s.busy = true ∧ s.nextTurn = .seq)
    ∨ (t.seqStep = 0 ∧ s.busy = false ∧ ∃ w i, s.nextTurn = .host w ∧ decode w = .ok i)
    ∨ (t.seqStep = 0 ∧ t.seqPlan = [] ∧ s.nextTurn = .rst)

/-- The mark is sticky and set exactly by the refusals: a word presented while busy, a word the decoder refuses, a foreign writer's
step (10_state.md R32, 60_exceptions.md R161; decisions D14, D15; that a foreign writer has a refusing step is the model's reading,
log 9, and that a refusal is a next state is log 4). -/
def Obligations.RefusedMarkIsStickyAndSetByRefusals : Prop :=
  ∀ s t : State, step s = .next t →
    (t.refused = true ↔ s.refused = true ∨ (∃ g l, s.nextTurn = .foreign g l)
      ∨ ∃ w, s.nextTurn = .host w ∧ (s.busy = true ∨ ∃ r, decode w = .error r))

/-- STATED, 10_state.md R28: the outputs are write-only. A plan depends only on its command and, for COMMUTATE, on the Hall sample;
whatever the outputs are, every other field of the next state is the same; a HOST's step leaves the outputs as they are. -/
def Obligations.NothingReadsTheOutputs : Prop :=
  (∀ (i : Instr) (s s' : State), s.cfg.wellFormed = true → s.cfg = s'.cfg → s.busy = false → s'.busy = false →
    (i = .commutate → s.cfg.hallCode s.inRead = s'.cfg.hallCode s'.inRead) →
    ∃ t t', exec i s = .next t ∧ exec i s' = .next t' ∧ t.seqPlan = t'.seqPlan ∧ t.seqStep = t'.seqStep)
  ∧ (∀ (s : State) (o : Outputs), s.cfg.wellFormed = true →
    ∃ t t', step s = .next t ∧ step { s with out := o } = .next t' ∧ t' = { t with out := t'.out })
  ∧ ∀ (s t : State) (w : CmdWord), s.nextTurn = .host w → step s = .next t → t.out = s.out

/-! ### Micro-ops and primitives -/

/-- STATED, 20_memory.md R53: the SEQ's step writes the fields the table gives for its micro-op, at most two and both of one pin, in one
step, and the pin shows them in that step. -/
def Obligations.MicroOpWritesOnePinAtOnce : Prop :=
  ∀ (s : State) (m : MicroOp), s.cfg.wellFormed = true → s.nextTurn = .seq → s.seqPlan[s.seqStep]? = some m →
    ∃ t, step s = .next t ∧ (∀ q, q ≠ m.phase → t.out.get q = s.out.get q) ∧
      match m with
      | .eh p => t.out.get p = { s.out.get p with hsDir := .output, hsLat := s.cfg.hsOnLevel }
          ∧ t.hsLevel p = .driven s.cfg.hsOnLevel
      | .dh p => t.out.get p = { s.out.get p with hsDir := .output, hsLat := !s.cfg.hsOnLevel }
          ∧ t.hsLevel p = .driven (!s.cfg.hsOnLevel)
      | .el p => t.out.get p = { s.out.get p with lsPwm := true }
          ∧ t.lsLevel p = .driven (Config.pwmDraw t.instant p)
      | .dl1 p => t.out.get p = { s.out.get p with lsDir := .output, lsLat := true }
          ∧ t.lsLevel p = .driven (if (s.out.get p).lsPwm then Config.pwmDraw t.instant p else true)
      | .dl2 p => t.out.get p = { s.out.get p with lsPwm := false }
          ∧ t.lsLevel p = if (s.out.get p).lsDir = .output then .driven (s.out.get p).lsLat else .z

/-- Every micro-op is idempotent; micro-ops on different phases, or on different pins of one phase, commute (40_phase_driver.md R106,
20_memory.md R54, which the spec marks as derived). -/
def Obligations.MicroOpsAreIdempotentAndIndependent : Prop :=
  (∀ (on : Bool) (m : MicroOp) (o : Outputs), m.perform on (m.perform on o) = m.perform on o)
  ∧ ∀ (on : Bool) (m n : MicroOp) (o : Outputs), (m.phase ≠ n.phase ∨ m.isHighSide ≠ n.isHighSide) →
    m.perform on (n.perform on o) = n.perform on (m.perform on o)

/-- ENABLE_HIGH, DISABLE_HIGH and ENABLE_LOW_PWM from presentation to their end: two steps, the fields the rules give, every other
output field, the mark, the input and the build as before (40_phase_driver.md R101 to R103, 70_reset_and_hazards.md R192; decisions
D3, D12, D17, D22; the empty `turns` and the placing of the word are the model's own, logs 1, 8). -/
def Obligations.OneStepPrimitivesWriteTheirPin : Prop :=
  ∀ (s : State) (p : Phase), s.cfg.wellFormed = true → s.busy = false → s.turns = [] →
    (∃ t : State, core.run 2 (s.withFetchWord 8 (0x40 + p.code.toNat)) = .next t ∧ t.busy = false
      ∧ t.out = s.out.set p { s.out.get p with hsDir := .output, hsLat := s.cfg.hsOnLevel }
      ∧ t.refused = s.refused ∧ t.hallIn = s.hallIn ∧ t.cfg = s.cfg)
    ∧ (∃ t : State, core.run 2 (s.withFetchWord 8 (0x50 + p.code.toNat)) = .next t ∧ t.busy = false
      ∧ t.out = s.out.set p { s.out.get p with hsDir := .output, hsLat := !s.cfg.hsOnLevel }
      ∧ t.refused = s.refused ∧ t.hallIn = s.hallIn ∧ t.cfg = s.cfg)
    ∧ ∃ t : State, core.run 2 (s.withFetchWord 8 (0x60 + p.code.toNat)) = .next t ∧ t.busy = false
      ∧ t.out = s.out.set p { s.out.get p with lsPwm := true }
      ∧ t.refused = s.refused ∧ t.hallIn = s.hallIn ∧ t.cfg = s.cfg

/-- DISABLE_LOW_PWM from presentation to its end: the pin is pre-driven to its off level while PWM may still own it, then released,
so that after its first micro-op it never floats and shows its channel's waveform or the off level, whatever its state was
(40_phase_driver.md R104, 70_reset_and_hazards.md R185; decisions D12, D22; the empty `turns`, the waveform's `instant` and the
placing of the word are the model's own, logs 1, 5, 8). -/
def Obligations.DisableLowPwmPreDrivesThenReleases : Prop :=
  ∀ (s : State) (p : Phase), s.cfg.wellFormed = true → s.busy = false → s.turns = [] →
    ∃ t u v : State, step (s.withFetchWord 8 (0x70 + p.code.toNat)) = .next t ∧ step t = .next u ∧ step u = .next v
      ∧ t.out = s.out
      ∧ u.out = s.out.set p { s.out.get p with lsDir := .output, lsLat := true } ∧ u.busy = true
      ∧ u.lsLevel p = (if (s.out.get p).lsPwm then .driven (Config.pwmDraw u.instant p) else .driven true)
      ∧ v.out = s.out.set p { s.out.get p with lsDir := .output, lsLat := true, lsPwm := false } ∧ v.busy = false
      ∧ v.lsLevel p = .driven true
      ∧ v.refused = s.refused ∧ v.hallIn = s.hallIn ∧ v.cfg = s.cfg

/-! ### Hall decoder, sector mapper, targets and plans -/

/-- Bit 0 of the Hall Code is sensor A, bit 1 sensor B, bit 2 sensor C, and the masked pattern and the code determine each other, so that
the other bits of the input have no effect (41_commutation_engine.md R120; decisions D5, D6). -/
def Obligations.HallCodeAndMaskedPatternDetermineEachOther : Prop :=
  ∀ (cfg : Config) (v v' : BitVec cfg.wIn),
    ((cfg.hallCode v).getLsbD 0 = v.getLsbD cfg.hallPosA ∧ (cfg.hallCode v).getLsbD 1 = v.getLsbD cfg.hallPosB
      ∧ (cfg.hallCode v).getLsbD 2 = v.getLsbD cfg.hallPosC)
    ∧ (cfg.masked v = cfg.masked v' ↔ cfg.hallCode v = cfg.hallCode v')

/-- The source's scan of the Sector Table and the ROM lookup agree on every code, in every well-formed build (41_commutation_engine.md
R122; the representation of the index is decision D7). -/
def Obligations.TableScanAgreesWithRomLookup : Prop :=
  ∀ (cfg : Config) (c : BitVec 3), cfg.wellFormed = true →
    cfg.scan c = cfg.sectorOf c ∧ (cfg.sectorOf c).bits = cfg.romRead c

/-- In every well-formed build exactly the codes `000` and `111` are invalid, and each sector has exactly one code
(41_commutation_engine.md R121, R122; decisions D7, D8). -/
def Obligations.SixCodesReachTheSixSectors : Prop :=
  ∀ cfg : Config, cfg.wellFormed = true →
    (∀ c, cfg.sectorOf c = .invalid ↔ c = 0b000 ∨ c = 0b111) ∧ ∀ x, ∃ c, ∀ c', cfg.sectorOf c' = .sector x ↔ c' = c

/-- The default table: the codes 0 to 7, and the rotation order `010, 110, 100, 101, 001, 011` visiting sectors 1 to 6
(41_commutation_engine.md R123, R138; decisions D5 to D8, D30). -/
def Obligations.DefaultTableFollowsRotationOrder : Prop :=
  ([0x00, 0x08, 0x10, 0x18, 0x20, 0x28, 0x30, 0x38].map fun v : BitVec 8 => Config.default.sectorOf (Config.default.hallCode v))
      = [.invalid, .sector .s5, .sector .s1, .sector .s6, .sector .s3, .sector .s4, .sector .s2, .invalid]
    ∧ ([0b010, 0b110, 0b100, 0b101, 0b001, 0b011].map Config.default.sectorOf) = Sector.all.map .sector

/-- STATED, 41_commutation_engine.md R126 and R127: a sector's target turns on exactly the source's high side and the sink's low side,
which are two phases, and leaves the third phase with neither; the target of INVALID, and all-off, ask for nothing. -/
def Obligations.SectorTargetActivatesTwoPhases : Prop :=
  ∀ (cfg : Config) (x : Sector), cfg.wellFormed = true →
    (∀ p, ((cfg.target (.sector x)).get p).high = (p == cfg.src x) ∧ ((cfg.target (.sector x)).get p).low = (p == cfg.snk x))
    ∧ cfg.src x ≠ cfg.snk x
    ∧ (∃ p, p ≠ cfg.src x ∧ p ≠ cfg.snk x ∧ (cfg.target (.sector x)).get p = ⟨false, false⟩)
    ∧ cfg.target .invalid = Target.allOff ∧ ∀ p, Target.allOff.get p = ⟨false, false⟩

/-- The seven plans of the default build, micro-op by micro-op (41_commutation_engine.md R129, derived there; decisions D9, D11). -/
def Obligations.DefaultPlansAreThoseOfTheTable : Prop :=
  plan (Config.default.target (.sector .s1)) = [.dh .a, .dl1 .b, .dl2 .b, .dh .c, .dl1 .c, .dl2 .c, .eh .b, .el .a]
    ∧ plan (Config.default.target (.sector .s2)) = [.dh .a, .dl1 .a, .dl2 .a, .dl1 .b, .dl2 .b, .dh .c, .eh .b, .el .c]
    ∧ plan (Config.default.target (.sector .s3)) = [.dl1 .a, .dl2 .a, .dh .b, .dl1 .b, .dl2 .b, .dh .c, .eh .a, .el .c]
    ∧ plan (Config.default.target (.sector .s4)) = [.dl1 .a, .dl2 .a, .dh .b, .dh .c, .dl1 .c, .dl2 .c, .eh .a, .el .b]
    ∧ plan (Config.default.target (.sector .s5)) = [.dh .a, .dl1 .a, .dl2 .a, .dh .b, .dl1 .c, .dl2 .c, .eh .c, .el .b]
    ∧ plan (Config.default.target (.sector .s6)) = [.dh .a, .dh .b, .dl1 .b, .dl2 .b, .dl1 .c, .dl2 .c, .eh .c, .el .a]
    ∧ plan Target.allOff = [.dh .a, .dl1 .a, .dl2 .a, .dh .b, .dl1 .b, .dl2 .b, .dh .c, .dl1 .c, .dl2 .c]

/-- The shape of every plan of every well-formed build: 8 or 9 micro-ops, every disable before every enable, for each phase exactly one
of `DH`, `EH` and either `DL1` at once followed by `DL2`, or the single `EL` (41_commutation_engine.md R128, 70_reset_and_hazards.md
R186; decision D11). -/
def Obligations.PlansDisableBeforeTheyEnable : Prop :=
  ∀ (cfg : Config) (idx : SectorIndex), cfg.wellFormed = true →
    (plan (cfg.target idx)).length = (if idx = .invalid then 9 else 8)
    ∧ (∃ dis en, plan (cfg.target idx) = dis ++ en ∧ (∀ m ∈ dis, m.isEnable = false) ∧ ∀ m ∈ en, m.isEnable = true)
    ∧ ∀ p, (plan (cfg.target idx)).count (.dh p) + (plan (cfg.target idx)).count (.eh p) = 1
        ∧ (plan (cfg.target idx)).count (.dl1 p) + (plan (cfg.target idx)).count (.el p) = 1
        ∧ (plan (cfg.target idx)).count (.dl2 p) = (plan (cfg.target idx)).count (.dl1 p)
        ∧ ((plan (cfg.target idx)).count (.dl1 p) = 1 → [.dl1 p, .dl2 p] <:+: plan (cfg.target idx))

/-! ### What the plans do -/

/-- A pending plan runs in list order, one micro-op a step, when no other agent acts (20_memory.md R57, 41_commutation_engine.md
R130; decisions D11, D22; the empty `turns` and `instant` are the model's own, logs 1, 5). -/
def Obligations.PendingPlanRunsInListOrder : Prop :=
  ∀ (s : State) (k : Nat), s.cfg.wellFormed = true → s.turns = [] → k ≤ s.pending.length →
    core.run k s = .next
      { s with
        out := performAll s.cfg.hsOnLevel (s.pending.take k) s.out
        seqStep := s.seqStep + k
        instant := s.instant + k }

/-- The engine commands from presentation to their end, from any outputs whatever (so also after a reset with unknown outputs): 8 or
9 SEQ steps, busy before the last and idle after it; for a sector the source's high side is on, the sink's low side connected with
its latch and direction as they were, every other switch off; for all-off every one of the 15 fields has its reset value
(41_commutation_engine.md R132 to R134, R136, 70_reset_and_hazards.md R181, R192; decisions D11, D13, D16, D22; the empty `turns`
and the placing of the word are the model's own, logs 1, 8). -/
def Obligations.EngineCommandsReachTheirTarget : Prop :=
  ∀ s : State, s.cfg.wellFormed = true → s.busy = false → s.turns = [] →
    (∀ (i : Instr) (x : Sector), (i = .activateSector x ∨ (i = .commutate ∧ s.sampledSector = .sector x)) →
      ∃ u t : State, core.run 8 (s.withFetchWord 8 (encode i).toNat) = .next u ∧ u.busy = true
        ∧ core.run 9 (s.withFetchWord 8 (encode i).toNat) = .next t ∧ t.busy = false
        ∧ t.refused = s.refused ∧ t.hallIn = s.hallIn ∧ t.cfg = s.cfg
        ∧ ∀ p, t.out.get p =
            if p = s.cfg.src x then
              { hsDir := .output, hsLat := s.cfg.hsOnLevel, lsDir := .output, lsLat := true, lsPwm := false }
            else if p = s.cfg.snk x then
              { s.out.get p with hsDir := .output, hsLat := !s.cfg.hsOnLevel, lsPwm := true }
            else PhaseOut.allOff s.cfg.hsOnLevel)
    ∧ ∀ i : Instr, (i = .allOff ∨ (i = .commutate ∧ s.sampledSector = .invalid)) →
      ∃ u t : State, core.run 9 (s.withFetchWord 8 (encode i).toNat) = .next u ∧ u.busy = true
        ∧ core.run 10 (s.withFetchWord 8 (encode i).toNat) = .next t ∧ t.busy = false
        ∧ t.refused = s.refused ∧ t.hallIn = s.hallIn ∧ t.cfg = s.cfg
        ∧ t.out = Outputs.uniform (PhaseOut.allOff s.cfg.hsOnLevel)

/-- A sector's plan, from any outputs, ends in the commutation invariant, with the source's high side on and the sink's low side enabled;
the all-off plan ends in ALLOFF (41_commutation_engine.md R136, derived there; 10_state.md R35, R36). -/
def Obligations.CompletedPlansMeetCommutationInvariant : Prop :=
  ∀ (cfg : Config) (o : Outputs), cfg.wellFormed = true →
    (∀ x, (performAll cfg.hsOnLevel (plan (cfg.target (.sector x))) o).commutationInvariant cfg.hsOnLevel = true
      ∧ ((performAll cfg.hsOnLevel (plan (cfg.target (.sector x))) o).get (cfg.src x)).high cfg.hsOnLevel = .on
      ∧ ((performAll cfg.hsOnLevel (plan (cfg.target (.sector x))) o).get (cfg.snk x)).low = .enabled)
    ∧ (performAll cfg.hsOnLevel (plan (cfg.target .invalid)) o).allOff cfg.hsOnLevel = true

/-- The final packed states of the default build, from any outputs that meet the reachable-state invariant (41_commutation_engine.md
R136, derived there; 10_state.md R37). -/
def Obligations.DefaultFinalPackedStates : Prop :=
  ∀ o : Outputs, o.pinsDriven →
    (Sector.all.map fun x => Phase.all.map fun p => ((performAll true (plan (Config.default.target (.sector x))) o).get p).pack)
        = [[0b10111#5, 0b11110#5, 0b10110#5], [0b10110#5, 0b11110#5, 0b10111#5], [0b11110#5, 0b10110#5, 0b10111#5],
           [0b11110#5, 0b10111#5, 0b10110#5], [0b10110#5, 0b10111#5, 0b11110#5], [0b10111#5, 0b10110#5, 0b11110#5]]
      ∧ (Phase.all.map fun p => ((performAll true (plan Target.allOff) o).get p).pack) = [0b10110#5, 0b10110#5, 0b10110#5]

/-- Idempotence: a plan performed again at once, a sector's, all-off's or a primitive's, changes no field at any of its steps
(41_commutation_engine.md R135, derived there). -/
def Obligations.RepeatedPlanChangesNothing : Prop :=
  ∀ (on : Bool) (ms : List MicroOp) (o : Outputs) (k : Nat), ((∃ t, ms = plan t) ∨ ∃ kind p, ms = primPlan kind p) →
    performAll on (ms.take k) (performAll on ms o) = performAll on ms o

/-- From a sector to the next the plan changes exactly two of the 15 fields, one disable and then one enable, in every well-formed build
(41_commutation_engine.md R125, R128; derived in 95_test_vectors.md P2; decisions D9, D11). -/
def Obligations.AdjacentSectorChangesTwoFields : Prop :=
  ∀ (cfg : Config) (x : Sector) (o : Outputs), cfg.wellFormed = true → o.pinsDriven →
    let before := performAll cfg.hsOnLevel (plan (cfg.target (.sector x))) o
    before.fieldsChanged (performAll cfg.hsOnLevel (disables (cfg.target (.sector x.next))) before) = 1
    ∧ before.fieldsChanged (performAll cfg.hsOnLevel (plan (cfg.target (.sector x.next))) before) = 2

/-! ### Safety -/

/-- The may-conduct predicates against the pins: a high side is ruled out exactly when its switch is off, a low side exactly when it is
disabled, which is when its pin is at the off level for every waveform (10_state.md R25, R26, R34; decision D24). -/
def Obligations.MayConductIsWhatThePinsDoNotRuleOut : Prop :=
  ∀ (on : Bool) (x : PhaseOut),
    (x.highMayOn on = false ↔ x.highSwitch on = .off) ∧ (x.highMayOn on = false ↔ x.hsLevel = .driven (!on))
    ∧ (x.lowMayOn = false ↔ x.lowSwitch = .disabled) ∧ (x.lowMayOn = false ↔ ∀ wave, x.lsLevel wave = .driven true)

/-- During the disables of a plan no micro-op adds a switch that may conduct, from any outputs; after the last one only the source's
high side and the sink's low side may (70_reset_and_hazards.md R184, items 1 and 2, derived there). -/
def Obligations.DisablesAddNoConductingSwitch : Prop :=
  ∀ (cfg : Config) (idx : SectorIndex) (o : Outputs), cfg.wellFormed = true →
    (∀ k, o.addsNoSwitch cfg.hsOnLevel (performAll cfg.hsOnLevel ((disables (cfg.target idx)).take k) o))
    ∧ ∀ p, (((performAll cfg.hsOnLevel (disables (cfg.target idx)) o).get p).highMayOn cfg.hsOnLevel = true →
          ((cfg.target idx).get p).high = true)
        ∧ (((performAll cfg.hsOnLevel (disables (cfg.target idx)) o).get p).lowMayOn = true → ((cfg.target idx).get p).low = true)

/-- Plans keep SAFE: from safe outputs every state of the run of a sector's or the all-off plan is safe; from any outputs every state from
the end of the disables on is (70_reset_and_hazards.md R183, R184 (a) and (b), derived there; decisions D11, D23, D24). -/
def Obligations.EnginePlansKeepSafe : Prop :=
  ∀ (cfg : Config) (idx : SectorIndex) (o : Outputs) (k : Nat), cfg.wellFormed = true →
    (o.safe cfg.hsOnLevel = true ∨ (disables (cfg.target idx)).length ≤ k) →
    (performAll cfg.hsOnLevel ((plan (cfg.target idx)).take k) o).safe cfg.hsOnLevel = true

/-- The transition from sector 3 to sector 4: `DL2(C)` at index 5, `EL(B)` at index 7, and the low sides of B and C never both may
conduct (70_reset_and_hazards.md R184 (d), derived there; trace T3 of 95_test_vectors.md; decision D11). -/
def Obligations.SectorThreeToFourReleasesBeforeItConnects : Prop :=
  (plan (Config.default.target (.sector .s4)))[5]? = some (.dl2 .c) ∧ (plan (Config.default.target (.sector .s4)))[7]? = some (.el .b)
    ∧ ∀ k, let o := performAll true ((plan (Config.default.target (.sector .s4))).take k)
            (performAll true (plan (Config.default.target (.sector .s3))) State.reset.out)
        ¬ ((o.get .b).lowMayOn = true ∧ (o.get .c).lowMayOn = true)

/-- Why the order across phases matters: the two swaps the spec names break SAFE, and so do two primitives without their disables
(70_reset_and_hazards.md R187, R191, R183; decisions D3, D11, D23). -/
def Obligations.ReorderedPlansBreakSafe : Prop :=
  let s3 := performAll true (plan (Config.default.target (.sector .s3))) State.reset.out
  let s1 := performAll true (plan (Config.default.target (.sector .s1))) State.reset.out
  (performAll true [.dl1 .a, .dl2 .a, .dh .b, .dh .c, .dl1 .c, .el .b] s3).safe true = false
    ∧ (performAll true [.dl1 .a, .dl2 .a, .eh .a] s1).safe true = false
    ∧ (performAll true (primPlan .enableHigh .a ++ primPlan .enableHigh .b) State.reset.out).safe true = false
    ∧ (performAll true (primPlan .enableHigh .a ++ primPlan .enableLowPwm .a) State.reset.out).safe true = false

/-! ### Invariants -/

/-- Every step keeps the machine's invariant: a well-formed build, at most 9 micro-ops, `seq.step` within the plan, a Hall input of
`W_IN` bits (10_state.md R22, R29; decision D22; that the widths are bounds on naturals, and an ENV step's value is cut to `W_IN`
bits, is log 12). -/
def Obligations.EveryStepKeepsTheMachineInvariant : Prop :=
  ∀ s t : State, s.Inv → step s = .next t → t.Inv

/-- With `RESET_OUTPUTS_KNOWN` every step keeps every pin an output and every low-side latch at its off level (10_state.md R37, derived
there). -/
def Obligations.EveryStepKeepsThePinsDriven : Prop :=
  ∀ s t : State, s.cfg.resetOutputsKnown = true → s.out.pinsDriven → step s = .next t → t.out.pinsDriven

/-- While the pins are driven no switch is undetermined and no low side is statically on (10_state.md R37, derived there). -/
def Obligations.DrivenPinsLeaveNoSwitchUndetermined : Prop :=
  ∀ (o : Outputs) (on : Bool), o.pinsDriven → ∀ p,
    (o.get p).high on ≠ .undetermined ∧ (o.get p).low ≠ .undetermined ∧ (o.get p).lowSwitch ≠ .staticallyOn
      ∧ (o.get p).lowSwitch ≠ .undetermined

/-- Safety of whole runs: with `RESET_OUTPUTS_KNOWN`, from a state whose outputs are safe and stay so through the plan in progress, every
step but the HOST's presenting a primitive leads to such a state, whatever the agents do (70_reset_and_hazards.md R184, R191; decisions
D3, D11, D16, D23, D24). -/
def Obligations.EveryDutifulStepStaysSafe : Prop :=
  ∀ s t : State, s.cfg.resetOutputsKnown = true → s.staysSafe → s.nextTurn.keepsDuty = true → step s = .next t → t.staysSafe

/-- The three invariants hold where a run starts, in every well-formed build; the last two where reset's outputs are known
(70_reset_and_hazards.md R180, R184; decision D16; that the Hall input starts within its width rests on the model's choice of 0, log 3). -/
def Obligations.InvariantsHoldWhereARunStarts : Prop :=
  State.reset.Inv ∧ State.reset.out.pinsDriven ∧ State.reset.staysSafe
    ∧ ∀ (cfg : Config) (s : State), start cfg = .next s →
        s.Inv ∧ (cfg.resetOutputsKnown = true → s.out.pinsDriven ∧ s.staysSafe)

/-- Every command ends: once the pending turns are taken, at most 9 more steps leave the block idle (41_commutation_engine.md R130,
60_exceptions.md R173, 70_reset_and_hazards.md R192; decisions D22, D25; that the SEQ steps when no turn is pending is log 1). -/
def Obligations.EveryCommandEnds : Prop :=
  ∀ s : State, s.Inv → ∃ t : State, core.run (s.turns.length + 9) s = .next t ∧ t.busy = false ∧ t.turns = []
end

