-- ==== Sys2Proof/Laws/Decode.lean ====
section
/-! SUPPORT. The fields of an encoded command (30_encoding.md R70, R72). -/

namespace Sys2Proof

@[simp] theorem ofWord_encode_op (i : Instr) : (Cmd8.ofWord (encode i)).op = i.opcode := by
  rcases i with _ | _ | ⟨_ | _⟩ | ⟨_ | _⟩ | ⟨_ | _⟩ | ⟨_ | _⟩ | ⟨_ | _⟩ <;> rfl

@[simp] theorem ofWord_encode_z (i : Instr) : (Cmd8.ofWord (encode i)).z = 0 := by
  rcases i with _ | _ | ⟨_ | _⟩ | ⟨_ | _⟩ | ⟨_ | _⟩ | ⟨_ | _⟩ | ⟨_ | _⟩ <;> rfl

@[simp] theorem ofWord_encode_arg (i : Instr) : (Cmd8.ofWord (encode i)).arg = i.arg := by
  rcases i with _ | _ | ⟨_ | _⟩ | ⟨_ | _⟩ | ⟨_ | _⟩ | ⟨_ | _⟩ | ⟨_ | _⟩ <;> rfl

/-- A word is its three fields (30_encoding.md R70). -/
theorem word_eq_fields (w : CmdWord) :
    w = (Cmd8.ofWord w).op ++ ((Cmd8.ofWord w).z ++ (Cmd8.ofWord w).arg) := by
  revert w; decide

end Sys2Proof
end

