-- ==== Sys2Proof/Laws/State.lean ====
section
/-! SUPPORT. The fields of State after each of its updates, and the registers of the Phase Driver after a write. -/

namespace Sys2Proof.Machine

variable (s : State)

/-! ### `State.withOut` -/

@[simp] theorem State.withOut_cfg (o : Outputs) : (s.withOut o).cfg = s.cfg := rfl
@[simp] theorem State.withOut_out (o : Outputs) : (s.withOut o).out = o := rfl
@[simp] theorem State.withOut_seqPlan (o : Outputs) : (s.withOut o).seqPlan = s.seqPlan := rfl
@[simp] theorem State.withOut_seqStep (o : Outputs) : (s.withOut o).seqStep = s.seqStep := rfl
@[simp] theorem State.withOut_refused (o : Outputs) : (s.withOut o).refused = s.refused := rfl
@[simp] theorem State.withOut_reason (o : Outputs) : (s.withOut o).reason = s.reason := rfl
@[simp] theorem State.withOut_hallIn (o : Outputs) : (s.withOut o).hallIn = s.hallIn := rfl
@[simp] theorem State.withOut_turns (o : Outputs) : (s.withOut o).turns = s.turns := rfl
@[simp] theorem State.withOut_instant (o : Outputs) : (s.withOut o).instant = s.instant := rfl

/-! ### `State.withSeq` -/

@[simp] theorem State.withSeq_cfg (ms : List MicroOp) (k : Nat) : (s.withSeq ms k).cfg = s.cfg := rfl
@[simp] theorem State.withSeq_out (ms : List MicroOp) (k : Nat) : (s.withSeq ms k).out = s.out := rfl
@[simp] theorem State.withSeq_seqPlan (ms : List MicroOp) (k : Nat) : (s.withSeq ms k).seqPlan = ms := rfl
@[simp] theorem State.withSeq_seqStep (ms : List MicroOp) (k : Nat) : (s.withSeq ms k).seqStep = k := rfl
@[simp] theorem State.withSeq_refused (ms : List MicroOp) (k : Nat) : (s.withSeq ms k).refused = s.refused := rfl
@[simp] theorem State.withSeq_reason (ms : List MicroOp) (k : Nat) : (s.withSeq ms k).reason = s.reason := rfl
@[simp] theorem State.withSeq_hallIn (ms : List MicroOp) (k : Nat) : (s.withSeq ms k).hallIn = s.hallIn := rfl
@[simp] theorem State.withSeq_turns (ms : List MicroOp) (k : Nat) : (s.withSeq ms k).turns = s.turns := rfl
@[simp] theorem State.withSeq_instant (ms : List MicroOp) (k : Nat) : (s.withSeq ms k).instant = s.instant := rfl

/-! ### `State.withHall` -/

@[simp] theorem State.withHall_cfg (v : Nat) : (s.withHall v).cfg = s.cfg := rfl
@[simp] theorem State.withHall_out (v : Nat) : (s.withHall v).out = s.out := rfl
@[simp] theorem State.withHall_seqPlan (v : Nat) : (s.withHall v).seqPlan = s.seqPlan := rfl
@[simp] theorem State.withHall_seqStep (v : Nat) : (s.withHall v).seqStep = s.seqStep := rfl
@[simp] theorem State.withHall_refused (v : Nat) : (s.withHall v).refused = s.refused := rfl
@[simp] theorem State.withHall_reason (v : Nat) : (s.withHall v).reason = s.reason := rfl
@[simp] theorem State.withHall_hallIn (v : Nat) : (s.withHall v).hallIn = v := rfl
@[simp] theorem State.withHall_turns (v : Nat) : (s.withHall v).turns = s.turns := rfl
@[simp] theorem State.withHall_instant (v : Nat) : (s.withHall v).instant = s.instant := rfl

/-! ### `State.raise` -/

@[simp] theorem State.raise_cfg (r : RefusedReason) : (s.raise r).cfg = s.cfg := rfl
@[simp] theorem State.raise_out (r : RefusedReason) : (s.raise r).out = s.out := rfl
@[simp] theorem State.raise_seqPlan (r : RefusedReason) : (s.raise r).seqPlan = s.seqPlan := rfl
@[simp] theorem State.raise_seqStep (r : RefusedReason) : (s.raise r).seqStep = s.seqStep := rfl
@[simp] theorem State.raise_refused (r : RefusedReason) : (s.raise r).refused = true := rfl
@[simp] theorem State.raise_reason (r : RefusedReason) : (s.raise r).reason = some r := rfl
@[simp] theorem State.raise_hallIn (r : RefusedReason) : (s.raise r).hallIn = s.hallIn := rfl
@[simp] theorem State.raise_turns (r : RefusedReason) : (s.raise r).turns = s.turns := rfl
@[simp] theorem State.raise_instant (r : RefusedReason) : (s.raise r).instant = s.instant := rfl

/-! ### `State.nextInstant` -/

@[simp] theorem State.nextInstant_cfg : s.nextInstant.cfg = s.cfg := rfl
@[simp] theorem State.nextInstant_out : s.nextInstant.out = s.out := rfl
@[simp] theorem State.nextInstant_seqPlan : s.nextInstant.seqPlan = s.seqPlan := rfl
@[simp] theorem State.nextInstant_seqStep : s.nextInstant.seqStep = s.seqStep := rfl
@[simp] theorem State.nextInstant_refused : s.nextInstant.refused = s.refused := rfl
@[simp] theorem State.nextInstant_reason : s.nextInstant.reason = s.reason := rfl
@[simp] theorem State.nextInstant_hallIn : s.nextInstant.hallIn = s.hallIn := rfl
@[simp] theorem State.nextInstant_turns : s.nextInstant.turns = s.turns.tail := rfl
@[simp] theorem State.nextInstant_instant : s.nextInstant.instant = s.instant + 1 := rfl

/-! ### `State.withFetchWord` -/

@[simp] theorem State.withFetchWord_cfg (n w : Nat) : (s.withFetchWord n w).cfg = s.cfg := rfl
@[simp] theorem State.withFetchWord_out (n w : Nat) : (s.withFetchWord n w).out = s.out := rfl
@[simp] theorem State.withFetchWord_seqPlan (n w : Nat) : (s.withFetchWord n w).seqPlan = s.seqPlan := rfl
@[simp] theorem State.withFetchWord_seqStep (n w : Nat) : (s.withFetchWord n w).seqStep = s.seqStep := rfl
@[simp] theorem State.withFetchWord_refused (n w : Nat) : (s.withFetchWord n w).refused = s.refused := rfl
@[simp] theorem State.withFetchWord_reason (n w : Nat) : (s.withFetchWord n w).reason = s.reason := rfl
@[simp] theorem State.withFetchWord_hallIn (n w : Nat) : (s.withFetchWord n w).hallIn = s.hallIn := rfl
@[simp] theorem State.withFetchWord_turns (n w : Nat) : (s.withFetchWord n w).turns = .host (BitVec.ofNat 8 (w % 2 ^ n)) :: s.turns := rfl
@[simp] theorem State.withFetchWord_instant (n w : Nat) : (s.withFetchWord n w).instant = s.instant := rfl

/-! ### Reading a phase after writing one -/

@[simp] theorem Outputs.get_set_same (o : Outputs) (p : Phase) (v : PhaseOut) : (o.set p v).get p = v := by
  cases p <;> rfl

theorem Outputs.get_set_ne (o : Outputs) {p q : Phase} (v : PhaseOut) (h : q ≠ p) : (o.set p v).get q = o.get q := by
  cases p <;> cases q <;> first | rfl | exact absurd rfl h

theorem Outputs.get_set (o : Outputs) (p q : Phase) (v : PhaseOut) :
    (o.set p v).get q = if q = p then v else o.get q := by
  split
  · next h => subst h; simp
  · next h => exact o.get_set_ne v h

@[simp] theorem Outputs.get_uniform (v : PhaseOut) (p : Phase) : (Outputs.uniform v).get p = v := by
  cases p <;> rfl

/-- Outputs that agree on every phase are equal. -/
theorem Outputs.ext_get {o o' : Outputs} (h : ∀ p, o.get p = o'.get p) : o = o' := by
  cases o; cases o'
  have ha := h .a; have hb := h .b; have hc := h .c
  simp only [Outputs.get] at ha hb hc
  subst ha hb hc; rfl

/-! ### The packed form -/

@[simp] theorem dir_ofBit_bit (d : Dir) : Dir.ofBit d.bit = d := by cases d <;> rfl

/-- Packing loses no field (10_state.md R27). -/
theorem PhaseOut.unpack_pack (x : PhaseOut) : PhaseOut.unpack x.pack = x := by
  rcases x with ⟨_ | _, _ | _, _ | _, _ | _, _ | _⟩ <;> rfl

/-! ### The derived bit `busy` -/

theorem State.busy_iff : s.busy = true ↔ s.seqStep < s.seqPlan.length := by simp [State.busy]

theorem State.not_busy_iff : s.busy = false ↔ s.seqPlan.length ≤ s.seqStep := by simp [State.busy]

@[simp] theorem State.busy_nextInstant : s.nextInstant.busy = s.busy := rfl

@[simp] theorem State.busy_withOut (o : Outputs) : (s.withOut o).busy = s.busy := rfl

@[simp] theorem State.busy_withHall (v : Nat) : (s.withHall v).busy = s.busy := rfl

@[simp] theorem State.busy_raise (r : RefusedReason) : (s.raise r).busy = s.busy := rfl

@[simp] theorem State.busy_withFetchWord (n w : Nat) : (s.withFetchWord n w).busy = s.busy := rfl

/-- Acceptance of a plan that is not empty makes the block busy. -/
@[simp] theorem State.busy_withSeq (ms : List MicroOp) (k : Nat) : (s.withSeq ms k).busy = decide (k < ms.length) := rfl

@[simp] theorem State.nextTurn_withFetchWord (n w : Nat) :
    (s.withFetchWord n w).nextTurn = .host (BitVec.ofNat 8 (w % 2 ^ n)) := rfl

/-- Taking the turn a command word was put in front of leaves the turns as they were. -/
theorem State.nextInstant_withFetchWord (n w : Nat) :
    (s.withFetchWord n w).nextInstant = { s with instant := s.instant + 1 } := rfl

end Sys2Proof.Machine
end

