-- ==== Sys2Proof/Laws/Ops.lean ====
section
/-! SUPPORT. What each shared operation can do: micro-ops, acceptance, the SEQ's step. -/

namespace Sys2Proof.Machine

/-! ### Micro-ops (40_phase_driver.md R100) -/

/-- A micro-op writes its own phase and no other. -/
theorem MicroOp.get_perform (on : Bool) (m : MicroOp) (o : Outputs) (p : Phase) :
    (m.perform on o).get p = if p = m.phase then m.write on (o.get p) else o.get p := by
  rw [MicroOp.perform, Outputs.get_set]
  split
  · next h => rw [h]
  · rfl

theorem MicroOp.get_perform_ne (on : Bool) (m : MicroOp) (o : Outputs) {p : Phase} (h : p ≠ m.phase) :
    (m.perform on o).get p = o.get p := by
  rw [MicroOp.get_perform, if_neg h]

@[simp] theorem MicroOp.get_perform_phase (on : Bool) (m : MicroOp) (o : Outputs) :
    (m.perform on o).get m.phase = m.write on (o.get m.phase) := by
  rw [MicroOp.get_perform, if_pos rfl]

@[simp] theorem performAll_nil (on : Bool) (o : Outputs) : performAll on [] o = o := rfl

@[simp] theorem performAll_cons (on : Bool) (m : MicroOp) (ms : List MicroOp) (o : Outputs) :
    performAll on (m :: ms) o = performAll on ms (m.perform on o) := rfl

theorem performAll_append (on : Bool) (ms ns : List MicroOp) (o : Outputs) :
    performAll on (ms ++ ns) o = performAll on ns (performAll on ms o) := List.foldl_append

/-- Micro-ops of other phases leave a phase as it is. -/
theorem get_performAll_of_forall_ne (on : Bool) (ms : List MicroOp) (o : Outputs) (p : Phase) (h : ∀ m ∈ ms, p ≠ m.phase) :
    (performAll on ms o).get p = o.get p := by
  induction ms generalizing o with
  | nil => rfl
  | cons m ms ih =>
    rw [performAll_cons, ih _ fun n hn => h n (List.mem_cons_of_mem m hn),
      m.get_perform_ne on o (h m List.mem_cons_self)]

/-! ### Acceptance (41_commutation_engine.md R131) -/

theorem accept_of_badConfig {s : State} (ms : List MicroOp) (h : s.cfg.wellFormed = false) :
    accept ms s = .refused .badConfig := by rw [accept, if_pos h]

theorem accept_of_idle {s : State} (ms : List MicroOp) (hw : s.cfg.wellFormed = true) (hb : s.busy = false) :
    accept ms s = .next (s.withSeq ms 0) := by simp [accept, hw, hb]

theorem accept_of_busy {s : State} (ms : List MicroOp) (hw : s.cfg.wellFormed = true) (hb : s.busy = true) :
    accept ms s = .next (s.raise .busy) := by simp [accept, hw, hb]

/-- What an acceptance that answers a next state has done. -/
theorem accept_cases {ms : List MicroOp} {s t : State} (h : accept ms s = .next t) :
    s.cfg.wellFormed = true ∧ (s.busy = true ∧ t = s.raise .busy ∨ s.busy = false ∧ t = s.withSeq ms 0) := by
  cases hw : s.cfg.wellFormed with
  | false => rw [accept_of_badConfig ms hw] at h; cases h
  | true =>
    refine ⟨rfl, ?_⟩
    cases hb : s.busy with
    | false => rw [accept_of_idle ms hw hb] at h; cases h; exact .inr ⟨rfl, rfl⟩
    | true => rw [accept_of_busy ms hw hb] at h; cases h; exact .inl ⟨rfl, rfl⟩

/-- Every command is an acceptance of some plan, which the state fixes. -/
theorem exec_eq_accept (i : Instr) (s : State) : ∃ ms, exec i s = accept ms s := by
  cases i <;> exact ⟨_, rfl⟩

/-- What a command that answers a next state has done. -/
theorem exec_cases {i : Instr} {s t : State} (h : exec i s = .next t) :
    s.cfg.wellFormed = true ∧ (s.busy = true ∧ t = s.raise .busy ∨ s.busy = false ∧ ∃ ms, t = s.withSeq ms 0) := by
  obtain ⟨ms, hms⟩ := exec_eq_accept i s
  obtain ⟨hw, hb | ⟨hb, ht⟩⟩ := accept_cases (hms ▸ h)
  · exact ⟨hw, .inl hb⟩
  · exact ⟨hw, .inr ⟨hb, ms, ht⟩⟩

/-! ### The SEQ's step (41_commutation_engine.md R130) -/

theorem seqTurn_of_some {s : State} {m : MicroOp} (h : s.seqPlan[s.seqStep]? = some m) :
    seqTurn s = (s.withOut (m.perform s.cfg.hsOnLevel s.out)).withSeq s.seqPlan (s.seqStep + 1) := by rw [seqTurn, h]

theorem seqTurn_of_idle {s : State} (h : s.busy = false) : seqTurn s = s := by
  rw [seqTurn, List.getElem?_eq_none (s.not_busy_iff.mp h)]

/-- A busy block has a next micro-op. -/
theorem exists_nextMicroOp {s : State} (h : s.busy = true) : ∃ m, s.seqPlan[s.seqStep]? = some m :=
  ⟨_, List.getElem?_eq_getElem (s.busy_iff.mp h)⟩

/-- What the SEQ's turn can do. -/
theorem seqTurn_cases (s : State) :
    (s.busy = false ∧ seqTurn s = s) ∨ (s.busy = true ∧ ∃ m, s.seqPlan[s.seqStep]? = some m ∧
      seqTurn s = (s.withOut (m.perform s.cfg.hsOnLevel s.out)).withSeq s.seqPlan (s.seqStep + 1)) := by
  cases hb : s.busy with
  | false => exact .inl ⟨rfl, seqTurn_of_idle hb⟩
  | true =>
    obtain ⟨m, hm⟩ := exists_nextMicroOp hb
    exact .inr ⟨rfl, m, hm, seqTurn_of_some hm⟩

end Sys2Proof.Machine
end

