-- ==== Sys2Proof/Laws/PerInstr.lean ====
section
/-! SUPPORT. The family `LegalWord`: every command's word has the fields of a legal word (30_encoding.md R70, R72, R73), one lemma
per command. -/

namespace Sys2Proof.Laws.LegalWord

/-- The encoded word has `OP` in `0x1` to `0x7`, `Z = 0`, and a legal operand. -/
def Statement (i : Instr) : Prop := (Cmd8.ofWord (encode i)).wellFormed = true

theorem commutate : Statement .commutate := by unfold Statement; decide

theorem allOff : Statement .allOff := by unfold Statement; decide

theorem activateSector (s : Sector) : Statement (.activateSector s) := by unfold Statement; cases s <;> decide

theorem enableHigh (p : Phase) : Statement (.enableHigh p) := by unfold Statement; cases p <;> decide

theorem disableHigh (p : Phase) : Statement (.disableHigh p) := by unfold Statement; cases p <;> decide

theorem enableLowPwm (p : Phase) : Statement (.enableLowPwm p) := by unfold Statement; cases p <;> decide

theorem disableLowPwm (p : Phase) : Statement (.disableLowPwm p) := by unfold Statement; cases p <;> decide

end Sys2Proof.Laws.LegalWord
end

