-- ==== Sys2Proof/Laws/Step.lean ====
section
/-! SUPPORT. What the HOST's issue and a step can do, said once. -/

namespace Sys2Proof.Machine

theorem issue_of_busy {s : State} (w : CmdWord) (h : s.busy = true) : issue w s = .next (s.raise .busy) := by
  rw [issue, if_pos h]

theorem issue_of_error {s : State} {w : CmdWord} {r : RefusedReason} (h : s.busy = false) (hd : decode w = .error r) :
    issue w s = .next (s.raise r) := by rw [issue, if_neg (by simp [h]), hd]

theorem issue_of_ok {s : State} {w : CmdWord} {i : Instr} (h : s.busy = false) (hd : decode w = .ok i) :
    issue w s = exec i s := by rw [issue, if_neg (by simp [h]), hd]

/-- What an issue that answers a next state has done (41_commutation_engine.md R131). -/
theorem issue_cases {w : CmdWord} {s t : State} (h : issue w s = .next t) :
    (s.busy = true ∧ t = s.raise .busy) ∨
    (s.busy = false ∧ ∃ r, decode w = .error r ∧ t = s.raise r) ∨
    (s.busy = false ∧ ∃ i ms, decode w = .ok i ∧ exec i s = .next t ∧ t = s.withSeq ms 0) := by
  cases hb : s.busy with
  | true => rw [issue_of_busy w hb] at h; cases h; exact .inl ⟨rfl, rfl⟩
  | false =>
    cases hd : decode w with
    | error r => rw [issue_of_error hb hd] at h; cases h; exact .inr (.inl ⟨rfl, r, rfl, rfl⟩)
    | ok i =>
      rw [issue_of_ok hb hd] at h
      obtain ⟨-, ⟨hb', -⟩ | ⟨-, ms, ht⟩⟩ := exec_cases h
      · rw [hb] at hb'; cases hb'
      · exact .inr (.inr ⟨rfl, i, ms, rfl, h, ht⟩)

theorem step_of_badConfig {s : State} (h : s.cfg.wellFormed = false) : step s = .refused .badConfig := by
  rw [step, advance, if_pos h]

theorem step_of_wellFormed {s : State} (h : s.cfg.wellFormed = true) : step s = takeTurn s.nextTurn s.nextInstant := by
  rw [step, advance, if_neg (by simp [h])]

/-- A turn that answers a next state leaves the configuration, the pending turns and the instant alone. -/
theorem takeTurn_keeps {u : Turn} {s t : State} (h : takeTurn u s = .next t) :
    t.cfg = s.cfg ∧ t.turns = s.turns ∧ t.instant = s.instant := by
  cases u with
  | host w =>
    rcases issue_cases h with ⟨-, rfl⟩ | ⟨-, r, -, rfl⟩ | ⟨-, i, ms, -, -, rfl⟩ <;> exact ⟨rfl, rfl, rfl⟩
  | seq =>
    cases h
    rcases seqTurn_cases s with ⟨-, h'⟩ | ⟨-, m, -, h'⟩ <;> rw [h'] <;> exact ⟨rfl, rfl, rfl⟩
  | hall v => cases h; exact ⟨rfl, rfl, rfl⟩
  | pwm => cases h; exact ⟨rfl, rfl, rfl⟩
  | rst => cases h; exact ⟨rfl, rfl, rfl⟩
  | foreign g l => cases h; exact ⟨rfl, rfl, rfl⟩

/-- The turn a list of pending turns begins with is taken in the state without it. -/
theorem step_of_turns {s : State} {u : Turn} {rest : List Turn} (hw : s.cfg.wellFormed = true) (h : s.turns = u :: rest) :
    step s = takeTurn u { s with turns := rest, instant := s.instant + 1 } := by
  have hn : s.nextInstant = { s with turns := rest, instant := s.instant + 1 } := by rw [State.nextInstant, h]; rfl
  rw [step_of_wellFormed hw, State.nextTurn, h, hn]

/-- The command word that was put in front of the turns is the one presented. -/
theorem step_withFetchWord {s : State} (n w : Nat) (hw : s.cfg.wellFormed = true) :
    step (s.withFetchWord n w) = issue (BitVec.ofNat 8 (w % 2 ^ n)) { s with instant := s.instant + 1 } :=
  step_of_turns (s := s.withFetchWord n w) hw rfl

/-- A step that answers a next state took the next turn, in a well-formed build, in a new instant. -/
theorem step_takes_turn {s t : State} (h : step s = .next t) :
    s.cfg.wellFormed = true ∧ takeTurn s.nextTurn s.nextInstant = .next t := by
  cases hw : s.cfg.wellFormed with
  | false => rw [step_of_badConfig hw] at h; cases h
  | true => exact ⟨rfl, step_of_wellFormed hw ▸ h⟩

/-- Everything a step that answers a next state can have done, in a well-formed build: nothing, at the SEQ's turn in an idle block or
at the PWM's; a refusal; an acceptance; a micro-op; a new Hall input; a reset. -/
theorem step_cases {s t : State} (h : step s = .next t) :
    s.cfg.wellFormed = true ∧
    ((t = s.nextInstant ∧ (s.nextTurn = .pwm ∨ s.nextTurn = .seq ∧ s.busy = false)) ∨
     (∃ w r, s.nextTurn = .host w ∧ (s.busy = true ∧ r = .busy ∨ s.busy = false ∧ decode w = .error r) ∧
       t = s.nextInstant.raise r) ∨
     (∃ g l, s.nextTurn = .foreign g l ∧ t = s.nextInstant.raise .foreignWriter) ∨
     (∃ w i ms, s.nextTurn = .host w ∧ s.busy = false ∧ decode w = .ok i ∧ exec i s.nextInstant = .next t ∧
       t = s.nextInstant.withSeq ms 0) ∨
     (∃ m, s.nextTurn = .seq ∧ s.seqPlan[s.seqStep]? = some m ∧
       t = (s.nextInstant.withOut (m.perform s.cfg.hsOnLevel s.out)).withSeq s.seqPlan (s.seqStep + 1)) ∨
     (∃ v, s.nextTurn = .hall v ∧ t = hallTurn v s.nextInstant) ∨
     (s.nextTurn = .rst ∧ t = resetTurn s.nextInstant)) := by
  obtain ⟨hw, h⟩ := step_takes_turn h
  refine ⟨hw, ?_⟩
  cases hu : s.nextTurn with
  | host w =>
    rw [hu] at h
    rcases issue_cases h with ⟨hb, rfl⟩ | ⟨hb, r, hd, rfl⟩ | ⟨hb, i, ms, hd, he, ht⟩
    · exact .inr (.inl ⟨w, _, rfl, .inl ⟨hb, rfl⟩, rfl⟩)
    · exact .inr (.inl ⟨w, r, rfl, .inr ⟨hb, hd⟩, rfl⟩)
    · exact .inr (.inr (.inr (.inl ⟨w, i, ms, rfl, hb, hd, he, ht⟩)))
  | seq =>
    rw [hu] at h; cases h
    rcases seqTurn_cases s.nextInstant with ⟨hb, h'⟩ | ⟨-, m, hm, h'⟩ <;> rw [h']
    · exact .inl ⟨rfl, .inr ⟨rfl, hb⟩⟩
    · exact .inr (.inr (.inr (.inr (.inl ⟨m, rfl, hm, rfl⟩))))
  | hall v => rw [hu] at h; cases h; exact .inr (.inr (.inr (.inr (.inr (.inl ⟨v, rfl, rfl⟩)))))
  | pwm => rw [hu] at h; cases h; exact .inl ⟨rfl, .inl rfl⟩
  | rst => rw [hu] at h; cases h; exact .inr (.inr (.inr (.inr (.inr (.inr ⟨rfl, rfl⟩)))))
  | foreign g l => rw [hu] at h; cases h; exact .inr (.inr (.inl ⟨g, l, rfl, rfl⟩))

end Sys2Proof.Machine
end

