-- ==== Sys2Proof/Laws/WellFormed.lean ====
section
/-! SUPPORT. What the configuration check gives (00_scope.md R7). -/

namespace Sys2Proof

theorem Sector.mem_all (s : Sector) : s ∈ Sector.all := by cases s <;> decide

theorem Phase.mem_all (p : Phase) : p ∈ Phase.all := by cases p <;> decide

namespace Config

/-- The eight constraints of R6, from the check. -/
theorem wellFormed_parts {cfg : Config} (h : cfg.wellFormed = true) :
    cfg.widthOk = true ∧ cfg.positionsInRange = true ∧ cfg.positionsDistinct = true ∧ cfg.romEndsInvalid = true
      ∧ cfg.romPermutes = true ∧ cfg.phasesDiffer = true ∧ cfg.pairsDistinct = true ∧ cfg.oneEndMoves = true := by
  simpa [wellFormed, and_assoc] using h

/-- Source and sink differ in every sector (41_commutation_engine.md R125, item 1). -/
theorem src_ne_snk {cfg : Config} (h : cfg.wellFormed = true) (s : Sector) : cfg.src s ≠ cfg.snk s := by
  have hp := (wellFormed_parts h).2.2.2.2.2.1
  simpa using List.all_eq_true.mp hp s s.mem_all

/-- One end of the current path moves from each sector to the next (41_commutation_engine.md R125, item 3). -/
theorem one_end_moves {cfg : Config} (h : cfg.wellFormed = true) (s : Sector) :
    ((cfg.src s == cfg.src s.next) != (cfg.snk s == cfg.snk s.next)) = true :=
  List.all_eq_true.mp (wellFormed_parts h).2.2.2.2.2.2.2 s s.mem_all

/-- The ROM's entries at the six valid codes are a permutation of 1 to 6 (41_commutation_engine.md R122). -/
theorem rom_perm {cfg : Config} (h : cfg.wellFormed = true) : (validCodes.map cfg.romRead).Perm validCodes :=
  List.isPerm_iff.mp (wellFormed_parts h).2.2.2.2.1

/-- ROM entries 0 and 7 are INVALID (41_commutation_engine.md R122). -/
theorem rom_ends {cfg : Config} (h : cfg.wellFormed = true) : cfg.romRead 0 = 0 ∧ cfg.romRead 7 = 0 := by
  simpa [romEndsInvalid] using (wellFormed_parts h).2.2.2.1

end Config

end Sys2Proof
end

