-- ==== Sys2Proof/Machine/Asm.lean ====
section
/-! DEFINITION. The assembler's syntax (30_encoding.md R77): one command a line, the mnemonic in upper case, at most one operand
after one space, `;` starting a comment. There are no pseudo-instructions (R78). -/

namespace Sys2Proof

/-- A phase operand: `A`, `B` or `C` (R77). -/
def Phase.text : Phase → String
  | .a => "A"
  | .b => "B"
  | .c => "C"

/-- A sector operand: a decimal `1` to `6` (R77). -/
def Sector.text : Sector → String
  | .s1 => "1"
  | .s2 => "2"
  | .s3 => "3"
  | .s4 => "4"
  | .s5 => "5"
  | .s6 => "6"

/-- A command as the assembler writes it (R77). -/
def Instr.text : Instr → String
  | .commutate => "COMMUTATE"
  | .allOff => "ALL_OFF"
  | .activateSector s => "ACTIVATE_SECTOR " ++ s.text
  | .enableHigh p => "ENABLE_HIGH " ++ p.text
  | .disableHigh p => "DISABLE_HIGH " ++ p.text
  | .enableLowPwm p => "ENABLE_LOW_PWM " ++ p.text
  | .disableLowPwm p => "DISABLE_LOW_PWM " ++ p.text

/-- A line without its comment and without the spaces before the comment (R77). -/
def codeOfLine (line : List Char) : List Char :=
  ((line.takeWhile (· ≠ ';')).reverse.dropWhile (· = ' ')).reverse

/-- The command of a line, if the line is one (R77). -/
def assemble (line : String) : Option Instr :=
  Instr.all.find? fun i => i.text.toList == codeOfLine line.toList

/-- The word of a line (R77). -/
def assembleWord (line : String) : Option CmdWord := (assemble line).map encode

end Sys2Proof
end

