-- ==== Sys2Proof/Machine/Directives.lean ====
section
/-! DEFINITION. The directives in which the spec writes its test programs (30_encoding.md R79), as steps of the machine. They are no
commands and have no encoding. -/

namespace Sys2Proof.Machine

/-- The directives (30_encoding.md R79). -/
inductive Directive
  /-- `HALL v`: an ENV step. -/
  | hall (v : Nat)
  /-- `ISSUE`: a HOST step presenting a word; it does not wait. -/
  | issue (w : CmdWord)
  /-- `STEP n`: `n` SEQ steps. -/
  | seqSteps (n : Nat)
  /-- `WAIT`: SEQ steps until `busy = 0`. -/
  | wait
  /-- A command on its own line: `ISSUE`, then `WAIT`. -/
  | command (i : Instr)
  /-- `RESET`. -/
  | reset
  deriving DecidableEq, Repr

/-- Take one turn now, before those that are pending. -/
def stepWith (t : Turn) (s : State) : Host.Outcome State Fault Refusal := step { s with turns := t :: s.turns }

/-- `n` SEQ turns. -/
def takeSeqSteps : Nat → State → Host.Outcome State Fault Refusal
  | 0, s => .next s
  | n + 1, s =>
    match stepWith .seq s with
    | .next t => takeSeqSteps n t
    | .fault r => .fault r
    | .refused r => .refused r

/-- SEQ turns until `busy = 0`: as many as the plan has micro-ops left, since each advances by one (41_commutation_engine.md R130). -/
def waitIdle (s : State) : Host.Outcome State Fault Refusal := takeSeqSteps (s.seqPlan.length - s.seqStep) s

/-- Run a directive (30_encoding.md R79). -/
def Directive.run (d : Directive) (s : State) : Host.Outcome State Fault Refusal :=
  match d with
  | .hall v => stepWith (.hall v) s
  | .issue w => stepWith (.host w) s
  | .seqSteps n => takeSeqSteps n s
  | .wait => waitIdle s
  | .command i =>
    match stepWith (.host (encode i)) s with
    | .next t => waitIdle t
    | .fault r => .fault r
    | .refused r => .refused r
  | .reset => stepWith .rst s

end Sys2Proof.Machine
end

