-- ==== Sys2Proof/Machine/Ports.lean ====
section
/-! DEFINITION. The block's output ports (30_encoding.md R71), as the state drives them. The input ports `cmd`, `cmd_valid`, `rst`
and `hall_in` are the agents' turns (log 1); `pwm_wave` is a free value (log 5). -/

namespace Sys2Proof.Machine

/-- The outputs of one phase: `HS_p`, `LS_p` and `PWM_SEL_p` (30_encoding.md R71). -/
structure PhasePorts where
  hs     : PinLevel
  ls     : PinLevel
  pwmSel : Bool
  deriving DecidableEq, Repr, Inhabited

/-- The output ports (30_encoding.md R71). -/
structure Ports where
  busy : Bool
  a    : PhasePorts
  b    : PhasePorts
  c    : PhasePorts
  deriving DecidableEq, Repr, Inhabited

/-- The ports of one phase. `PWM_SEL_p` is `out[p].ls_pwm`: while it is 1 the PWM peripheral owns the pin (60_exceptions.md R170). -/
def State.phasePorts (s : State) (p : Phase) : PhasePorts := ⟨s.hsLevel p, s.lsLevel p, (s.out.get p).lsPwm⟩

/-- The ports of the block. -/
def State.ports (s : State) : Ports := ⟨s.busy, s.phasePorts .a, s.phasePorts .b, s.phasePorts .c⟩

end Sys2Proof.Machine
end

