-- ==== Sys2Proof/Tests/Slice0.lean ====
section
/-! SUPPORT. The model's own tests. Expected results are the spec's: 95_test_vectors.md (ids E, K, H, PD, T, SF, RF) and the bit patterns of
30_encoding.md R72. The last section shows, for every statement with hypotheses, a state and operands that meet them. -/

namespace Sys2Proof.Tests

open Sys2Proof.Machine

/-! ### Helpers -/

/-- The reset state with the given turns pending. -/
def pending (ts : List Turn) : State := { State.reset with turns := ts }

/-- A busy block: the plan of sector 1, three micro-ops performed (vector RF1). -/
def busyState (ts : List Turn) : State :=
  { State.reset with seqPlan := plan (Config.default.target (.sector .s1)), seqStep := 3, turns := ts }

/-- The outputs whose phases have the given packed values. -/
def packed (a b c : BitVec 5) : Outputs := ⟨PhaseOut.unpack a, PhaseOut.unpack b, PhaseOut.unpack c⟩

/-- A test of the state a step answers; false when it answers none. -/
def after (o : Host.Outcome State Fault Refusal) (test : State → Bool) : Bool :=
  match o with
  | .next t => test t
  | .fault _ => false
  | .refused _ => false

/-! ### Well-formedness: an ill-formed configuration for each check (K1 to K9), and ill-formed fields (E4, E5, E11, E15, E16, E22) -/

theorem test_wellFormed_default : Config.default.wellFormed = true := by decide

theorem test_wellFormed_refuses_width : { Config.default with wIn := 2 }.widthOk = false
    ∧ { Config.default with wIn := 2 }.wellFormed = false := by decide

theorem test_wellFormed_refuses_position_out_of_range : { Config.default with hallPosC := 8 }.positionsInRange = false
    ∧ { Config.default with hallPosC := 8 }.wellFormed = false := by decide

theorem test_wellFormed_refuses_equal_positions : { Config.default with hallPosB := 3 }.positionsDistinct = false
    ∧ { Config.default with hallPosB := 3 }.wellFormed = false := by decide

theorem test_wellFormed_refuses_valid_code_0 : { Config.default with sectorRom := #v[1, 5, 0, 6, 3, 4, 2, 0] }.romEndsInvalid = false
    ∧ { Config.default with sectorRom := #v[1, 5, 0, 6, 3, 4, 2, 0] }.wellFormed = false := by decide

theorem test_wellFormed_refuses_repeated_sector : { Config.default with sectorRom := #v[0, 1, 1, 2, 3, 4, 5, 0] }.romPermutes = false
    ∧ { Config.default with sectorRom := #v[0, 1, 1, 2, 3, 4, 5, 0] }.wellFormed = false := by decide

theorem test_wellFormed_refuses_sector_7 : { Config.default with sectorRom := #v[0, 7, 1, 6, 3, 4, 2, 0] }.wellFormed = false := by
  decide

theorem test_wellFormed_refuses_source_is_sink :
    { Config.default with sectorPhases := #v[(.a, .a), (.b, .c), (.a, .c), (.a, .b), (.c, .b), (.c, .a)] }.phasesDiffer = false
    ∧ { Config.default with sectorPhases := #v[(.a, .a), (.b, .c), (.a, .c), (.a, .b), (.c, .b), (.c, .a)] }.wellFormed = false := by
  decide

theorem test_wellFormed_refuses_repeated_pair :
    { Config.default with sectorPhases := #v[(.b, .a), (.b, .c), (.b, .a), (.b, .c), (.b, .a), (.b, .c)] }.pairsDistinct = false
    ∧ { Config.default with sectorPhases := #v[(.b, .a), (.b, .c), (.b, .a), (.b, .c), (.b, .a), (.b, .c)] }.wellFormed = false := by
  decide

theorem test_wellFormed_refuses_two_ends_moving :
    { Config.default with sectorPhases := #v[(.b, .a), (.a, .c), (.b, .c), (.a, .b), (.c, .b), (.c, .a)] }.oneEndMoves = false
    ∧ { Config.default with sectorPhases := #v[(.b, .a), (.a, .c), (.b, .c), (.a, .b), (.c, .b), (.c, .a)] }.wellFormed = false := by
  decide

theorem test_wellFormed_accepts_reversed_phases :
    { Config.default with sectorPhases := #v[(.b, .a), (.c, .a), (.c, .b), (.a, .b), (.a, .c), (.b, .c)] }.wellFormed = true := by
  decide

theorem test_cmd8_refuses_ill_formed :
    (Cmd8.mk 0x1 0 1).wellFormed = false ∧ (Cmd8.mk 0x1 1 0).wellFormed = false ∧ (Cmd8.mk 0x3 0 7).wellFormed = false
    ∧ (Cmd8.mk 0x4 0 3).wellFormed = false ∧ (Cmd8.mk 0x4 0 4).wellFormed = false ∧ (Cmd8.mk 0x8 0 0).wellFormed = false
    ∧ (Cmd8.mk 0x4 0 2).wellFormed = true := by decide

/-! ### Decoding: each constructor's word, bit by bit, and the refused words of vectors E -/

theorem test_decode_commutate : decode 0b00010000 = .ok .commutate := by decide

theorem test_decode_allOff : decode 0b00100000 = .ok .allOff := by decide

theorem test_decode_activateSector : decode 0b00110001 = .ok (.activateSector .s1) ∧ decode 0b00110110 = .ok (.activateSector .s6) := by
  decide

theorem test_decode_enableHigh : decode 0b01000000 = .ok (.enableHigh .a) ∧ decode 0b01000010 = .ok (.enableHigh .c) := by decide

theorem test_decode_disableHigh : decode 0b01010001 = .ok (.disableHigh .b) := by decide

theorem test_decode_enableLowPwm : decode 0b01100010 = .ok (.enableLowPwm .c) := by decide

theorem test_decode_disableLowPwm : decode 0b01110000 = .ok (.disableLowPwm .a) := by decide

theorem test_decode_refusals :
    decode 0x00 = .error .reservedOpcode ∧ decode 0x0B = .error .reservedOpcode ∧ decode 0x11 = .error .nonzeroReservedBits
    ∧ decode 0x18 = .error .nonzeroReservedBits ∧ decode 0x27 = .error .nonzeroReservedBits ∧ decode 0x30 = .error .badSector
    ∧ decode 0x37 = .error .badSector ∧ decode 0x39 = .error .nonzeroReservedBits ∧ decode 0x43 = .error .badPhase
    ∧ decode 0x44 = .error .nonzeroReservedBits ∧ decode 0x4B = .error .nonzeroReservedBits ∧ decode 0x73 = .error .badPhase
    ∧ decode 0x80 = .error .reservedOpcode ∧ decode 0xFF = .error .reservedOpcode := by decide

theorem test_decodeTableWord : decodeTableWord 8 0x36 = some (.activateSector .s6) ∧ decodeTableWord 8 0x30 = none := by decide

/-! ### Assembler (30_encoding.md R77) -/

theorem test_assemble : assembleWord "ACTIVATE_SECTOR 6" = some 0x36 := by decide

theorem test_assemble_comment : assembleWord "COMMUTATE                 ; 0x10" = some 0x10 := by decide

theorem test_assemble_refuses_lower_case : assembleWord "commutate" = none := by decide

/-! ### Hall decoder under other positions (H14 to H18) -/

theorem test_hall_other_positions :
    ([0x80, 0x01, 0x10, 0x91, 0x6E].map fun v : BitVec 8 =>
      { Config.default with hallPosA := 7, hallPosB := 0, hallPosC := 4 }.hallCode v) = [0b001, 0b010, 0b100, 0b111, 0b000] := by decide

theorem test_hall_ignores_other_bits :
    ([0xFF, 0xC7, 0x97, 0x6D].map fun v : BitVec 8 => Config.default.sectorOf (Config.default.hallCode v))
      = [.invalid, .invalid, .sector .s1, .sector .s4] := by decide

/-! ### One command accepted, one step (P1, RF1 to RF4) -/

theorem test_commutate : after (step ((pending []).withFetchWord 8 0x10 |>.withHall 0x10)) fun t =>
    t.seqPlan == [.dh .a, .dl1 .b, .dl2 .b, .dh .c, .dl1 .c, .dl2 .c, .eh .b, .el .a] && t.seqStep == 0 && t.busy := by decide

theorem test_commutate_invalid_code : after (exec .commutate (State.reset.withHall 0x38)) fun t =>
    t.seqPlan.length == 9 && !t.refused := by decide

theorem test_allOff : after (exec .allOff State.reset) fun t => t.seqPlan[3]? == some (.dh .b) && t.seqPlan.length == 9 := by decide

theorem test_activateSector : after (exec (.activateSector .s4) State.reset) fun t =>
    t.seqPlan == [.dl1 .a, .dl2 .a, .dh .b, .dh .c, .dl1 .c, .dl2 .c, .eh .a, .el .b] := by decide

theorem test_enableHigh : after (exec (.enableHigh .a) State.reset) fun t => t.seqPlan == [.eh .a] && t.out == State.reset.out := by decide

theorem test_disableHigh : after (exec (.disableHigh .b) State.reset) fun t => t.seqPlan == [.dh .b] := by decide

theorem test_enableLowPwm : after (exec (.enableLowPwm .c) State.reset) fun t => t.seqPlan == [.el .c] := by decide

theorem test_disableLowPwm : after (exec (.disableLowPwm .a) State.reset) fun t => t.seqPlan == [.dl1 .a, .dl2 .a] := by decide

theorem test_busy_word_refused : after (step (busyState [.host 0x20])) fun t =>
    t.refused && t.reason == some .busy && t.seqStep == 3 && t.seqPlan.length == 8 := by decide

theorem test_busy_checked_before_decoding : after (step (busyState [.host 0x00])) fun t => t.reason == some .busy := by decide

theorem test_bad_phase_refused : after (step (pending [.host 0x43])) fun t =>
    t.refused && t.reason == some .badPhase && t.seqPlan == [] && t.out == State.reset.out := by decide

/-! ### Micro-ops (PD3, PD5, PD8, PD11 to PD13) -/

theorem test_eh_from_input : ((MicroOp.eh .a).perform true (packed 0b00110 0 0)).a.pack = 0b11110 := by decide

theorem test_eh_other_polarity : ((MicroOp.eh .a).perform false (packed 0b11110 0 0)).a.pack = 0b10110 := by decide

theorem test_dh_from_input : ((MicroOp.dh .b).perform true (packed 0 0b01110 0)).b.pack = 0b10110 := by decide

theorem test_el_keeps_direction : ((MicroOp.el .c).perform true (packed 0 0 0b10000)).c.pack = 0b10001 := by decide

theorem test_dl1_then_dl2 : ((MicroOp.dl1 .a).perform true (packed 0b10001 0 0)).a.pack = 0b10111
    ∧ (performAll true [.dl1 .a, .dl2 .a] (packed 0b10001 0 0)).a.pack = 0b10110 := by decide

theorem test_seq_step : after (step (busyState [])) fun t => t.seqStep == 4 && t.busy && t.out == State.reset.out := by decide

theorem test_wait_directive : after (Directive.wait.run { State.reset with seqPlan := [.eh .a] }) fun t =>
    !t.busy && t.out.a.pack == 0b11110 := by decide

/-! ### Reset, ports and safety (SF1 to SF8) -/

theorem test_reset_keeps_the_mark : after (step { busyState [.rst] with refused := true }) fun t =>
    t.refused && !t.busy && t.seqPlan == [] && t.out == State.reset.out := by decide

theorem test_ports_of_reset : State.reset.phasePorts .a = ⟨.driven false, .driven true, false⟩ ∧ State.reset.ports.busy = false := by decide

theorem test_safe :
    (packed 0b10110 0b10110 0b10110).safe true = true ∧ (packed 0b10111 0b11110 0b10110).safe true = true
    ∧ (packed 0b11111 0b10110 0b10110).safe true = false ∧ (packed 0b11110 0b11110 0b10110).safe true = false
    ∧ (packed 0b10111 0b10111 0b10110).safe true = false ∧ (packed 0b00110 0b11110 0b10110).safe true = false
    ∧ (packed 0b10100 0b11110 0b10110).safe true = true := by decide

theorem test_commutationInvariant :
    (packed 0b10111 0b11110 0b10110).commutationInvariant true = true
    ∧ (packed 0b10110 0b10110 0b10110).commutationInvariant true = false ∧ (packed 0b10110 0b10110 0b10110).allOff true = true := by decide

/-! ### Witnesses: a state and operands that meet the hypotheses of each statement that has some -/

/-- A build that breaks a constraint (K5). -/
def badBuild : Config := { Config.default with wIn := 2 }

/-- The default build with unknown outputs at reset. -/
def unknownBuild : Config := { Config.default with resetOutputsKnown := false }

theorem witness_RunStartsOnlyInWellFormedBuild :
    badBuild.wellFormed = false ∧ Config.default.wellFormed = true ∧ Config.default.resetOutputsKnown = true
    ∧ unknownBuild.wellFormed = true := by decide

theorem witness_MalformedBuildHasNoStep : { State.reset with cfg := badBuild }.cfg.wellFormed = false := by decide

theorem witness_ResetAbandonsThePlanAndKeepsTheMark :
    (busyState [.rst, .seq]).cfg.wellFormed = true ∧ (busyState [.rst, .seq]).turns = .rst :: [.seq]
    ∧ (busyState [.rst, .seq]).cfg.resetOutputsKnown = true := by decide

theorem witness_PrimitiveCommandsLatchTheirPlan : State.reset.cfg.wellFormed = true ∧ State.reset.busy = false := by decide

theorem witness_EngineCommandsLatchTheirPlan :
    (State.reset.withHall 0xFF).cfg.wellFormed = true ∧ (State.reset.withHall 0xFF).busy = false := by decide

theorem witness_InvalidHallCodeRunsAllOffPlan :
    State.reset.cfg.wellFormed = true ∧ State.reset.busy = false ∧ (State.reset.withHall 0x38).turns = []
    ∧ (State.reset.withHall 0xC7).cfg.hallCode (State.reset.withHall 0xC7).inRead = 0b000
    ∧ (State.reset.withHall 0x38).cfg.hallCode (State.reset.withHall 0x38).inRead = 0b111 := by decide

theorem witness_CommandsWriteOnlyTheSequencer :
    (∃ t, exec .commutate State.reset = .next t) ∧ State.reset.busy = false
    ∧ (∃ t, exec .commutate (busyState []) = .next t) ∧ (busyState []).busy = true :=
  ⟨⟨_, rfl⟩, rfl, ⟨_, rfl⟩, rfl⟩

theorem witness_StepRunsTheDecodedCommand :
    (pending [.host 0x31, .seq]).cfg.wellFormed = true ∧ (pending [.host 0x31, .seq]).busy = false
    ∧ (pending [.host 0x31, .seq]).turns = .host 0x31 :: [.seq] ∧ decode 0x31 = .ok (.activateSector .s1) := by decide

theorem witness_BusyBlockRefusesEveryWord :
    (busyState [.host 0x20]).cfg.wellFormed = true ∧ (busyState [.host 0x20]).busy = true
    ∧ (busyState [.host 0x20]).turns = [.host 0x20] := by decide

theorem witness_MalformedWordIsNotAccepted :
    (pending [.host 0x43]).cfg.wellFormed = true ∧ (pending [.host 0x43]).busy = false
    ∧ (pending [.host 0x43]).turns = [.host 0x43] ∧ decode 0x43 = .error .badPhase := by decide

/-- The SEQ's turn as a pending one, and as the one taken when none is pending; the first and the last micro-op of a plan. -/
theorem witness_SeqStepPerformsTheNextMicroOp :
    (busyState []).cfg.wellFormed = true ∧ (busyState []).nextTurn = .seq ∧ (busyState [.seq, .host 0x20]).nextTurn = .seq
    ∧ { busyState [] with seqStep := 0 }.seqPlan[0]? = some (.dh .a) ∧ { busyState [] with seqStep := 7 }.seqPlan[7]? = some (.el .a) := by
  decide

theorem witness_IdleBlockHoldsItsState :
    State.reset.cfg.wellFormed = true ∧ State.reset.nextTurn = .seq ∧ State.reset.busy = false
    ∧ { busyState [] with seqStep := 8 }.busy = false := by decide

theorem witness_EnvironmentChangesNoBlockField :
    (busyState [.hall 0x1FF]).cfg.wellFormed = true ∧ (busyState [.hall 0x1FF]).turns = [.hall 0x1FF]
    ∧ (busyState [.pwm]).turns = [.pwm] := by decide

theorem witness_ForeignWriterIsRefused :
    (pending [.foreign (.lsPin .a) false]).cfg.wellFormed = true
    ∧ (pending [.foreign (.lsPin .a) false]).turns = [.foreign (.lsPin .a) false] := by decide

theorem witness_EveryStepOfWellFormedBuildCompletes : State.reset.cfg.wellFormed = true := by decide

/-- A SEQ step that changes the outputs, and a reset that does. -/
theorem witness_OnlySeqAndResetWriteOutputs :
    after (step { State.reset with seqPlan := [.eh .a] }) (fun t => t.out != State.reset.out) = true
    ∧ after (step { pending [.rst] with out := packed 0 0 0 }) (fun t => t.out != packed 0 0 0) = true := by decide

/-- A step of each kind the statement names. -/
theorem witness_SequencerMovesOnlyBySeqAcceptanceOrReset :
    (∃ t, step State.reset = .next t) ∧ (∃ t, step (busyState []) = .next t) ∧ (∃ t, step (pending [.host 0x10]) = .next t)
    ∧ ∃ t, step (busyState [.rst]) = .next t :=
  ⟨⟨_, rfl⟩, ⟨_, rfl⟩, ⟨_, rfl⟩, ⟨_, rfl⟩⟩

/-- A step of each kind that leaves the mark set, and one that leaves it clear. -/
theorem witness_RefusedMarkIsStickyAndSetByRefusals :
    after (step { State.reset with refused := true }) (·.refused) = true
    ∧ after (step (pending [.foreign (.hsPin .b) true])) (·.refused) = true ∧ after (step (busyState [.host 0x20])) (·.refused) = true
    ∧ after (step (pending [.host 0x37])) (·.refused) = true ∧ after (step (pending [.host 0x36])) (!·.refused) = true := by decide

theorem witness_NothingReadsTheOutputs :
    State.reset.cfg.wellFormed = true ∧ State.reset.cfg = { State.reset with out := packed 0 0 0 }.cfg
    ∧ State.reset.busy = false ∧ { State.reset with out := packed 0 0 0 }.busy = false
    ∧ State.reset.cfg.hallCode State.reset.inRead = State.reset.cfg.hallCode (State.reset.withHall 0xC7).inRead
    ∧ (pending [.host 0x10]).nextTurn = .host 0x10 ∧ after (step (pending [.host 0x10])) (fun _ => true) = true := by decide

/-- A next micro-op of each kind. -/
theorem witness_MicroOpWritesOnePinAtOnce : ∀ m ∈ [MicroOp.eh .a, .dh .b, .el .c, .dl1 .a, .dl2 .b],
    { State.reset with seqPlan := [m] }.cfg.wellFormed = true ∧ { State.reset with seqPlan := [m] }.nextTurn = .seq
    ∧ { State.reset with seqPlan := [m] }.seqPlan[{ State.reset with seqPlan := [m] }.seqStep]? = some m := by decide

theorem witness_MicroOpsAreIdempotentAndIndependent :
    (MicroOp.eh .a).phase ≠ (MicroOp.dh .b).phase
    ∧ ((MicroOp.eh .a).phase = (MicroOp.el .a).phase ∧ (MicroOp.eh .a).isHighSide ≠ (MicroOp.el .a).isHighSide) := by decide

theorem witness_OneStepPrimitivesWriteTheirPin :
    State.reset.cfg.wellFormed = true ∧ State.reset.busy = false ∧ State.reset.turns = [] := by decide

theorem witness_DisableLowPwmPreDrivesThenReleases :
    { State.reset with out := packed 0b10001 0 0 }.cfg.wellFormed = true ∧ { State.reset with out := packed 0b10001 0 0 }.busy = false
    ∧ { State.reset with out := packed 0b10001 0 0 }.turns = [] := by decide

/-- Two samples with one masked pattern, and two with different ones. -/
theorem witness_HallCodeAndMaskedPatternDetermineEachOther :
    Config.default.masked (0x97 : BitVec 8) = Config.default.masked (0x10 : BitVec 8)
    ∧ Config.default.hallCode (0x97 : BitVec 8) ≠ Config.default.hallCode (0x18 : BitVec 8) := by decide

theorem witness_TableScanAgreesWithRomLookup : Config.default.wellFormed = true := by decide

theorem witness_SixCodesReachTheSixSectors : { Config.default with wIn := 3, hallPosA := 0, hallPosB := 1, hallPosC := 2 }.wellFormed = true := by
  decide

theorem witness_SectorTargetActivatesTwoPhases : Config.default.wellFormed = true ∧ Config.default.src .s1 = .b ∧ Config.default.snk .s1 = .a := by
  decide

theorem witness_PlansDisableBeforeTheyEnable :
    Config.default.wellFormed = true ∧ (plan (Config.default.target (.sector .s1))).count (.dl1 .b) = 1 := by decide

theorem witness_PendingPlanRunsInListOrder :
    (busyState []).cfg.wellFormed = true ∧ (busyState []).turns = [] ∧ 5 ≤ (busyState []).pending.length := by decide

/-- An idle state for each command the statement names: COMMUTATE with a valid and with an invalid sample. -/
theorem witness_EngineCommandsReachTheirTarget :
    State.reset.cfg.wellFormed = true ∧ State.reset.busy = false ∧ State.reset.turns = []
    ∧ (State.reset.withHall 0x10).sampledSector = .sector .s1 ∧ (State.reset.withHall 0x38).sampledSector = .invalid := by decide

theorem witness_CompletedPlansMeetCommutationInvariant : Config.default.wellFormed = true := by decide

theorem witness_DefaultFinalPackedStates : (packed 0b11111 0b10110 0b10111).pinsDriven := by
  intro p; cases p <;> decide

theorem witness_RepeatedPlanChangesNothing :
    (∃ t, plan Target.allOff = plan t) ∧ ∃ kind p, primPlan .disableLowPwm .a = primPlan kind p := ⟨⟨_, rfl⟩, ⟨_, _, rfl⟩⟩

theorem witness_AdjacentSectorChangesTwoFields : Config.default.wellFormed = true ∧ State.reset.out.pinsDriven :=
  ⟨by decide, fun p => by cases p <;> decide⟩

theorem witness_DisablesAddNoConductingSwitch :
    Config.default.wellFormed = true
    ∧ ((performAll true (disables (Config.default.target (.sector .s1))) (packed 0b11111 0b11111 0b11111)).get .b).highMayOn true = true
    ∧ ((performAll true (disables (Config.default.target (.sector .s1))) (packed 0b11111 0b11111 0b11111)).get .a).lowMayOn = true := by
  decide

/-- Safe outputs, and unsafe ones at the end of the disables (trace T5). -/
theorem witness_EnginePlansKeepSafe :
    Config.default.wellFormed = true ∧ State.reset.out.safe true = true ∧ (packed 0b11110 0b11110 0b10110).safe true = false
    ∧ (disables (Config.default.target (.sector .s1))).length = 6 := by decide

theorem witness_EveryStepKeepsTheMachineInvariant : State.reset.Inv ∧ ∃ t, step State.reset = .next t :=
  ⟨⟨by decide, by decide, by decide, by decide⟩, ⟨_, rfl⟩⟩

theorem witness_EveryStepKeepsThePinsDriven :
    (busyState []).cfg.resetOutputsKnown = true ∧ (busyState []).out.pinsDriven ∧ ∃ t, step (busyState []) = .next t :=
  ⟨by decide, fun p => by cases p <;> decide, ⟨_, rfl⟩⟩

theorem witness_DrivenPinsLeaveNoSwitchUndetermined : (packed 0b11111 0b10110 0b11110).pinsDriven := by
  intro p; cases p <;> decide

/-- A state in the middle of sector 1's plan, and the turns of an engine command, a refused word and the SEQ. -/
theorem witness_EveryDutifulStepStaysSafe :
    (busyState []).cfg.resetOutputsKnown = true ∧ (busyState []).staysSafe
    ∧ (busyState [.host 0x10]).nextTurn.keepsDuty = true ∧ (busyState [.host 0x00]).nextTurn.keepsDuty = true
    ∧ (busyState []).nextTurn.keepsDuty = true ∧ (pending [.host 0x40]).nextTurn.keepsDuty = false
    ∧ ∃ t, step (busyState []) = .next t := by
  refine ⟨by decide, fun k => ?_, by decide, by decide, by decide, by decide, ⟨_, rfl⟩⟩
  by_cases hk : k < 6
  · have all : ∀ k < 6, (performAll true ((busyState []).pending.take k) (busyState []).out).safe true = true := by decide
    exact all k hk
  · have hl : (busyState []).pending.length = 5 := by decide
    rw [List.take_of_length_le (by omega)]
    decide

theorem witness_InvariantsHoldWhereARunStarts :
    (∃ s, start Config.default = .next s) ∧ Config.default.resetOutputsKnown = true ∧ ∃ s, start unknownBuild = .next s :=
  ⟨⟨_, rfl⟩, rfl, ⟨_, rfl⟩⟩

/-- A busy state with turns yet to be taken. -/
theorem witness_EveryCommandEnds : (busyState [.hall 0x10, .host 0x20]).Inv := ⟨by decide, by decide, by decide, by decide⟩

end Sys2Proof.Tests
end

section
/-! PROOFS. The start of a run, the outputs a known reset leaves, and what a malformed build answers (00_scope.md R7,
70_reset_and_hazards.md R180). -/

namespace Sys2Proof.Machine

/-! ### The outputs after reset -/

/-- Reset with known outputs leaves every phase fully off (70_reset_and_hazards.md R180). -/
theorem Outputs.get_afterReset_of_known {cfg : Config} (instant : Nat) (p : Phase) (h : cfg.resetOutputsKnown = true) :
    (Outputs.afterReset cfg instant).get p = PhaseOut.allOff cfg.hsOnLevel := by
  rw [Outputs.afterReset, if_pos h, Outputs.get_uniform]

/-! ### The start of a run -/

theorem start_of_badConfig {cfg : Config} (h : cfg.wellFormed = false) : start cfg = .refused .badConfig := by
  rw [start, if_pos h]

theorem start_of_wellFormed {cfg : Config} (h : cfg.wellFormed = true) : start cfg = .next (State.initial cfg) := by
  rw [start, if_neg (by simp [h])]

/-! ### A malformed build -/

/-- Every command is an acceptance, and acceptance checks the configuration first. -/
theorem exec_of_badConfig {s : State} (i : Instr) (h : s.cfg.wellFormed = false) : exec i s = .refused .badConfig := by
  obtain ⟨ms, hms⟩ := exec_eq_accept i s
  rw [hms, accept_of_badConfig ms h]

/-! ### The obligations -/

/-- Settles O6: a well-formed build starts in `State.initial`, whose outputs are those of a reset. -/
theorem runStartsOnlyInWellFormedBuild : Obligations.RunStartsOnlyInWellFormedBuild := by
  intro cfg
  refine ⟨start_of_badConfig, fun hw => ⟨State.initial cfg, start_of_wellFormed hw, rfl, rfl, rfl, rfl, ?_⟩⟩
  intro hk p
  exact Outputs.get_afterReset_of_known 0 p hk

/-- Settles O7: a step and every command check the configuration before anything else. -/
theorem malformedBuildHasNoStep : Obligations.MalformedBuildHasNoStep :=
  fun _ h => ⟨step_of_badConfig h, fun i => exec_of_badConfig i h⟩

end Sys2Proof.Machine
end

section
/-! PROOFS. The state (10_state.md): the machine's invariant, the pins that reset drives, the sequencer, the refused mark, and that
nothing reads the outputs; the switches as their pins leave them. -/

namespace Sys2Proof.Machine

/-! ### The plan a command latches (41_commutation_engine.md R128, R132 to R134; 40_phase_driver.md R105) -/

/-- The plan of a command: of the state it reads only the build and, for COMMUTATE, the Hall Code of the sample (10_state.md R28). -/
def commandPlan (cfg : Config) (code : BitVec 3) : Instr → List MicroOp
  | .commutate => plan (cfg.target (cfg.sectorOf code))
  | .allOff => plan Target.allOff
  | .activateSector x => plan (cfg.target (.sector x))
  | .enableHigh p => primPlan .enableHigh p
  | .disableHigh p => primPlan .disableHigh p
  | .enableLowPwm p => primPlan .enableLowPwm p
  | .disableLowPwm p => primPlan .disableLowPwm p

/-- The plan a command latches when it is accepted in `s`. -/
def State.planOf (s : State) (i : Instr) : List MicroOp := commandPlan s.cfg (s.cfg.hallCode s.inRead) i

/-- Every command is an acceptance of its plan. -/
theorem exec_eq_accept_planOf (i : Instr) (s : State) : exec i s = accept (s.planOf i) s := by
  cases i <;> rfl

/-- Only COMMUTATE's plan depends on the Hall Code. -/
theorem commandPlan_congr {cfg cfg' : Config} {c c' : BitVec 3} {i : Instr} (hcfg : cfg = cfg')
    (hcode : i = .commutate → c = c') : commandPlan cfg c i = commandPlan cfg' c' i := by
  subst hcfg
  cases i with
  | commutate => rw [hcode rfl]
  | _ => rfl

theorem exec_of_idle {s : State} (i : Instr) (hw : s.cfg.wellFormed = true) (hb : s.busy = false) :
    exec i s = .next (s.withSeq (s.planOf i) 0) := by
  rw [exec_eq_accept_planOf, accept_of_idle _ hw hb]

/-- A phase is disabled by one micro-op for its high side and two for its low side (41_commutation_engine.md R128). -/
theorem length_disablesOf (t : Target) (p : Phase) :
    (disablesOf t p).length = (if (t.get p).high then 0 else 1) + (if (t.get p).low then 0 else 2) := by
  cases hh : (t.get p).high <;> cases hl : (t.get p).low <;> simp [disablesOf, hh, hl]

/-- A target costs each phase at most three micro-ops: one for its high side, one or two for its low side. -/
theorem length_disablesOf_add_enables_le (t : Target) (ps : List Phase) :
    (ps.flatMap (disablesOf t)).length + ps.countP (fun p => (t.get p).high) + ps.countP (fun p => (t.get p).low)
      ≤ 3 * ps.length := by
  induction ps with
  | nil => exact Nat.le_refl 0
  | cons p ps ih =>
    simp only [List.flatMap_cons, List.length_append, length_disablesOf, List.countP_cons, List.length_cons]
    split <;> split <;> omega

/-- An engine's plan has at most nine micro-ops (10_state.md R22). -/
theorem length_plan_le (t : Target) : (plan t).length ≤ 9 := by
  have h := length_disablesOf_add_enables_le t Phase.all
  have h3 : Phase.all.length = 3 := rfl
  simp only [plan, disables, enables, List.length_append, List.length_map, ← List.countP_eq_length_filter]
  omega

theorem length_primPlan_le (k : PrimKind) (p : Phase) : (primPlan k p).length ≤ 2 := by
  cases k <;> simp [primPlan]

theorem length_commandPlan_le (cfg : Config) (code : BitVec 3) (i : Instr) : (commandPlan cfg code i).length ≤ 9 := by
  cases i with
  | commutate => exact length_plan_le _
  | allOff => exact length_plan_le _
  | activateSector x => exact length_plan_le _
  | enableHigh p => exact (length_primPlan_le .enableHigh p).trans (show 2 ≤ 9 by decide)
  | disableHigh p => exact (length_primPlan_le .disableHigh p).trans (show 2 ≤ 9 by decide)
  | enableLowPwm p => exact (length_primPlan_le .enableLowPwm p).trans (show 2 ≤ 9 by decide)
  | disableLowPwm p => exact (length_primPlan_le .disableLowPwm p).trans (show 2 ≤ 9 by decide)

/-- The plan a command has latched in an idle block is its own. -/
theorem exec_seqPlan {i : Instr} {s t : State} (hb : s.busy = false) (h : exec i s = .next t) : t.seqPlan = s.planOf i := by
  obtain ⟨hw, -⟩ := exec_cases h
  rw [exec_of_idle i hw hb] at h
  cases h; rfl

/-! ### The machine's invariant (10_state.md R22, R29) -/

namespace State.Inv

variable {s : State}

theorem nextInstant (h : s.Inv) : s.nextInstant.Inv := ⟨h.config, h.planShort, h.stepInPlan, h.hallFits⟩

theorem raise (h : s.Inv) (r : RefusedReason) : (s.raise r).Inv := ⟨h.config, h.planShort, h.stepInPlan, h.hallFits⟩

theorem withOut (h : s.Inv) (o : Outputs) : (s.withOut o).Inv := ⟨h.config, h.planShort, h.stepInPlan, h.hallFits⟩

theorem withSeq (h : s.Inv) {ms : List MicroOp} {k : Nat} (hms : ms.length ≤ 9) (hk : k ≤ ms.length) : (s.withSeq ms k).Inv :=
  ⟨h.config, hms, hk, h.hallFits⟩

/-- The Hall input takes `W_IN` bits of the value (20_memory.md R63). -/
theorem hallTurn (h : s.Inv) (v : Nat) : (hallTurn v s).Inv :=
  ⟨h.config, h.planShort, h.stepInPlan, Nat.mod_lt v (Nat.two_pow_pos _)⟩

theorem resetTurn (h : s.Inv) : (resetTurn s).Inv := (h.withOut _).withSeq (Nat.zero_le 9) (Nat.zero_le 0)

end State.Inv

/-- Settles O47: each operation a step is made of keeps the invariant; the plan an acceptance latches is a command's, so it has at most
nine micro-ops, and the SEQ advances only while a micro-op is left. -/
theorem everyStepKeepsTheMachineInvariant : Obligations.EveryStepKeepsTheMachineInvariant := by
  intro s t hs h
  have hn := hs.nextInstant
  obtain ⟨-, ⟨rfl, -⟩ | ⟨w, r, -, -, rfl⟩ | ⟨g, l, -, rfl⟩ | ⟨w, i, ms, -, hb, -, he, rfl⟩ | ⟨m, -, hm, rfl⟩ | ⟨v, -, rfl⟩ |
    ⟨-, rfl⟩⟩ := step_cases h
  · exact hn
  · exact hn.raise r
  · exact hn.raise .foreignWriter
  · have hms : ms = s.nextInstant.planOf i := exec_seqPlan (s := s.nextInstant) hb he
    exact hn.withSeq (hms ▸ length_commandPlan_le _ _ i) (Nat.zero_le _)
  · have hlt : s.seqStep < s.seqPlan.length := (List.getElem?_eq_some_iff.mp hm).1
    exact (hn.withOut _).withSeq hs.planShort hlt
  · exact hn.hallTurn v
  · exact hn.resetTurn

/-! ### What a step does to the outputs, and the pins that stay driven (10_state.md R37) -/

/-- A step keeps the outputs, performs the SEQ's next micro-op, or resets them. -/
theorem step_out_cases {s t : State} (h : step s = .next t) :
    t.out = s.out
    ∨ (∃ m, s.nextTurn = .seq ∧ s.seqPlan[s.seqStep]? = some m ∧ t.out = m.perform s.cfg.hsOnLevel s.out)
    ∨ (s.nextTurn = .rst ∧ t.out = Outputs.afterReset s.cfg (s.instant + 1)) := by
  obtain ⟨-, ⟨rfl, -⟩ | ⟨w, r, -, -, rfl⟩ | ⟨g, l, -, rfl⟩ | ⟨w, i, ms, -, -, -, -, rfl⟩ | ⟨m, hu, hm, rfl⟩ | ⟨v, -, rfl⟩ |
    ⟨hu, rfl⟩⟩ := step_cases h
  · exact .inl rfl
  · exact .inl rfl
  · exact .inl rfl
  · exact .inl rfl
  · exact .inr (.inl ⟨m, hu, hm, rfl⟩)
  · exact .inl rfl
  · exact .inr (.inr ⟨hu, rfl⟩)

/-- No micro-op makes a pin an input or lowers a low-side latch (40_phase_driver.md R100). -/
theorem MicroOp.pinsDriven_perform {o : Outputs} (on : Bool) (m : MicroOp) (h : o.pinsDriven) : (m.perform on o).pinsDriven := by
  intro p
  obtain ⟨hhs, hls, hlat⟩ := h p
  rw [MicroOp.get_perform]
  split
  · cases m <;> simp [MicroOp.write, hhs, hls, hlat]
  · exact ⟨hhs, hls, hlat⟩

/-- Reset with known outputs drives every pin. -/
theorem Outputs.pinsDriven_afterReset {cfg : Config} (instant : Nat) (h : cfg.resetOutputsKnown = true) :
    (Outputs.afterReset cfg instant).pinsDriven := by
  intro p
  rw [Outputs.get_afterReset_of_known instant p h]
  exact ⟨rfl, rfl, rfl⟩

/-- Settles O48: the outputs are kept, or written by a micro-op or by a reset, and each of these leaves the pins driven. -/
theorem everyStepKeepsThePinsDriven : Obligations.EveryStepKeepsThePinsDriven := by
  intro s t hk hd h
  rcases step_out_cases h with ho | ⟨m, -, -, ho⟩ | ⟨-, ho⟩ <;> rw [ho]
  · exact hd
  · exact m.pinsDriven_perform _ hd
  · exact Outputs.pinsDriven_afterReset _ hk

/-! ### The sequencer (10_state.md R22) -/

/-- Settles O22: of the branches of a step only an acceptance, the SEQ's micro-op and a reset write the sequencer. -/
theorem sequencerMovesOnlyBySeqAcceptanceOrReset : Obligations.SequencerMovesOnlyBySeqAcceptanceOrReset := by
  intro s t h
  obtain ⟨-, ⟨rfl, -⟩ | ⟨w, r, -, -, rfl⟩ | ⟨g, l, -, rfl⟩ | ⟨w, i, ms, hu, hb, hd, -, rfl⟩ | ⟨m, hu, hm, rfl⟩ | ⟨v, -, rfl⟩ |
    ⟨hu, rfl⟩⟩ := step_cases h
  · exact .inl ⟨rfl, rfl⟩
  · exact .inl ⟨rfl, rfl⟩
  · exact .inl ⟨rfl, rfl⟩
  · exact .inr (.inr (.inl ⟨rfl, hb, w, i, hu, hd⟩))
  · have hb : s.busy = true := s.busy_iff.mpr (List.getElem?_eq_some_iff.mp hm).1
    exact .inr (.inl ⟨rfl, rfl, hb, hu⟩)
  · exact .inl ⟨rfl, rfl⟩
  · exact .inr (.inr (.inr ⟨rfl, rfl, hu⟩))

/-! ### The refused mark (10_state.md R32, 60_exceptions.md R161) -/

/-- Settles O23: the refusing branches of a step are the three of the statement; every other one keeps the mark, and its turn is none
of the three. -/
theorem refusedMarkIsStickyAndSetByRefusals : Obligations.RefusedMarkIsStickyAndSetByRefusals := by
  intro s t h
  obtain ⟨-, ⟨rfl, hu⟩ | ⟨w, r, hu, hr, rfl⟩ | ⟨g, l, hu, rfl⟩ | ⟨w, i, ms, hu, hb, hd, -, rfl⟩ | ⟨m, hu, -, rfl⟩ | ⟨v, hu, rfl⟩ |
    ⟨hu, rfl⟩⟩ := step_cases h
  · rcases hu with hu | ⟨hu, -⟩ <;> simp [hu]
  · have hcause : s.busy = true ∨ ∃ r, decode w = .error r := hr.imp And.left fun hd => ⟨r, hd.2⟩
    exact ⟨fun _ => .inr (.inr ⟨w, hu, hcause⟩), fun _ => rfl⟩
  · exact ⟨fun _ => .inr (.inl ⟨g, l, hu⟩), fun _ => rfl⟩
  · simp [hu, hb, hd]
  · simp [hu]
  · simp [hu, hallTurn]
  · simp [hu, resetTurn]

/-! ### The outputs are write-only (10_state.md R28) -/

/-- Both outcomes are next states, and they differ at most in the outputs. -/
def sameButOutputs (x y : Host.Outcome State Fault Refusal) : Prop := ∃ t o, x = .next t ∧ y = .next (t.withOut o)

/-- An accepted command latches one plan whatever the outputs are, since `State.planOf` does not read them. -/
theorem exec_sameButOutputs {s : State} (i : Instr) (o : Outputs) (hw : s.cfg.wellFormed = true) (hb : s.busy = false) :
    sameButOutputs (exec i s) (exec i (s.withOut o)) :=
  ⟨_, o, exec_of_idle i hw hb, exec_of_idle (s := s.withOut o) i hw hb⟩

theorem issue_sameButOutputs {s : State} (w : CmdWord) (o : Outputs) (hw : s.cfg.wellFormed = true) :
    sameButOutputs (issue w s) (issue w (s.withOut o)) := by
  cases hb : s.busy with
  | true => exact ⟨_, o, issue_of_busy w hb, issue_of_busy (s := s.withOut o) w hb⟩
  | false =>
    cases hd : decode w with
    | error r => exact ⟨_, o, issue_of_error hb hd, issue_of_error (s := s.withOut o) hb hd⟩
    | ok i =>
      rw [issue_of_ok hb hd, issue_of_ok (s := s.withOut o) hb hd]
      exact exec_sameButOutputs i o hw hb

/-- Whether the SEQ steps, and what it does to the sequencer, does not depend on the outputs. -/
theorem seqTurn_withOut (s : State) (o : Outputs) : ∃ o', seqTurn (s.withOut o) = (seqTurn s).withOut o' := by
  rcases seqTurn_cases s with ⟨hb, hs⟩ | ⟨-, m, hm, hs⟩ <;> rw [hs]
  · exact ⟨o, seqTurn_of_idle (s := s.withOut o) hb⟩
  · exact ⟨m.perform s.cfg.hsOnLevel o, seqTurn_of_some (s := s.withOut o) hm⟩

theorem takeTurn_sameButOutputs {s : State} (u : Turn) (o : Outputs) (hw : s.cfg.wellFormed = true) :
    sameButOutputs (takeTurn u s) (takeTurn u (s.withOut o)) := by
  cases u with
  | host w => exact issue_sameButOutputs w o hw
  | seq =>
    obtain ⟨o', ho'⟩ := seqTurn_withOut s o
    exact ⟨_, o', rfl, congrArg _ ho'⟩
  | hall v => exact ⟨_, o, rfl, rfl⟩
  | pwm => exact ⟨_, o, rfl, rfl⟩
  | rst => exact ⟨_, Outputs.afterReset s.cfg s.instant, rfl, rfl⟩
  | foreign g l => exact ⟨_, o, rfl, rfl⟩

/-- A step in a well-formed build answers a next state, and other outputs change no other field of it. -/
theorem step_sameButOutputs {s : State} (o : Outputs) (hw : s.cfg.wellFormed = true) :
    sameButOutputs (step s) (step (s.withOut o)) := by
  rw [step_of_wellFormed hw, step_of_wellFormed (s := s.withOut o) hw]
  exact takeTurn_sameButOutputs (s := s.nextInstant) s.nextTurn o hw

/-- Settles O24: a plan is `commandPlan` of the build and the Hall Code; no turn reads the outputs into another field; the outputs are
written by the SEQ's turn and by reset only. -/
theorem nothingReadsTheOutputs : Obligations.NothingReadsTheOutputs := by
  refine ⟨fun i s s' hw hcfg hb hb' hcode => ?_, fun s o hw => ?_, fun s t w hu h => ?_⟩
  · exact ⟨_, _, exec_of_idle i hw hb, exec_of_idle i (hcfg ▸ hw) hb', commandPlan_congr hcfg hcode, rfl⟩
  · obtain ⟨t, o', ht, ht'⟩ := step_sameButOutputs o hw
    exact ⟨t, t.withOut o', ht, ht', rfl⟩
  · rcases step_out_cases h with ho | ⟨m, hu', -⟩ | ⟨hu', -⟩
    · exact ho
    · rw [hu] at hu'; cases hu'
    · rw [hu] at hu'; cases hu'

/-! ### The reset state (70_reset_and_hazards.md R180) -/

/-- The packed value of a phase that is fully off, for a high side that is on at 1. -/
theorem PhaseOut.pack_allOff_true : (PhaseOut.allOff true).pack = 0b10110#5 := rfl

/-- Settles O5: the default build's reset outputs are known, so every phase is fully off. -/
theorem resetStateIsAllOffAndIdle : Obligations.ResetStateIsAllOffAndIdle := by
  refine ⟨fun p => ?_, rfl, rfl, rfl, rfl, rfl⟩
  have hoff : State.reset.out.get p = PhaseOut.allOff true := Outputs.get_afterReset_of_known (cfg := Config.default) 0 p rfl
  rw [hoff, PhaseOut.pack_allOff_true]

/-! ### The switches as their pins leave them (10_state.md R25, R26, R34, R35) -/

namespace PhaseOut

variable (on : Bool) (x : PhaseOut)

theorem hsLevel_eq_driven_iff (l : Bool) : x.hsLevel = .driven l ↔ x.hsDir = .output ∧ x.hsLat = l := by
  cases hd : x.hsDir <;> simp [hsLevel, hd]

theorem highMayOn_eq_false_iff : x.highMayOn on = false ↔ x.hsDir = .output ∧ x.hsLat = !on := by
  cases hd : x.hsDir <;> simp [highMayOn, hd, Bool.eq_not_iff]

theorem highSwitch_eq_off_iff : x.highSwitch on = .off ↔ x.hsDir = .output ∧ x.hsLat = !on := by
  cases hd : x.hsDir <;> simp [highSwitch, hsLevel, hd, Bool.eq_not_iff]

theorem lowMayOn_eq_false_iff : x.lowMayOn = false ↔ x.lsPwm = false ∧ x.lsDir = .output ∧ x.lsLat = true := by
  cases hd : x.lsDir <;> simp [lowMayOn, hd]

theorem lowSwitch_eq_disabled_iff : x.lowSwitch = .disabled ↔ x.lsPwm = false ∧ x.lsDir = .output ∧ x.lsLat = true := by
  cases hp : x.lsPwm <;> cases hd : x.lsDir <;> simp [lowSwitch, hp, hd]

/-- A pin that PWM owns follows the waveform, so it is at the off level for every waveform only while PWM does not own it. -/
theorem forall_lsLevel_eq_driven_true_iff :
    (∀ wave, x.lsLevel wave = .driven true) ↔ x.lsPwm = false ∧ x.lsDir = .output ∧ x.lsLat = true := by
  cases hp : x.lsPwm <;> cases hd : x.lsDir <;> simp [lsLevel, hp, hd]

variable {on x}

/-- An output pin leaves its high side on or off. -/
theorem high_ne_undetermined (h : x.hsDir = .output) : x.high on ≠ .undetermined := by
  by_cases hl : x.hsLat = on
  · simp [high, h, hl]
  · have hoff : x.highMayOn on = false := (x.highMayOn_eq_false_iff on).mpr ⟨h, Bool.eq_not_of_ne hl⟩
    simp [high, hl, hoff]

/-- A low side whose pin is a driven-off output is enabled by PWM or disabled. -/
theorem low_ne_undetermined (hd : x.lsDir = .output) (hl : x.lsLat = true) : x.low ≠ .undetermined := by
  cases hp : x.lsPwm with
  | true => simp [low, hp]
  | false => simp [low, hp, x.lowMayOn_eq_false_iff.mpr ⟨hp, hd, hl⟩]

/-- The low-side switch of such a pin. -/
theorem lowSwitch_of_driven (hd : x.lsDir = .output) (hl : x.lsLat = true) :
    x.lowSwitch = if x.lsPwm then .enabled else .disabled := by
  simp [lowSwitch, hd, hl]

end PhaseOut

/-- Settles O42: each side of an equivalence says the same of the phase's fields. -/
theorem mayConductIsWhatThePinsDoNotRuleOut : Obligations.MayConductIsWhatThePinsDoNotRuleOut := by
  intro on x
  rw [x.highMayOn_eq_false_iff, x.highSwitch_eq_off_iff, x.hsLevel_eq_driven_iff, x.lowMayOn_eq_false_iff,
    x.lowSwitch_eq_disabled_iff, x.forall_lsLevel_eq_driven_true_iff]
  exact ⟨.rfl, .rfl, .rfl, .rfl⟩

/-- Settles O49: a driven high-side pin is at one of the two levels; a driven low-side pin is PWM's or at its off level. -/
theorem drivenPinsLeaveNoSwitchUndetermined : Obligations.DrivenPinsLeaveNoSwitchUndetermined := by
  intro o on h p
  obtain ⟨hhs, hls, hlat⟩ := h p
  refine ⟨PhaseOut.high_ne_undetermined hhs, PhaseOut.low_ne_undetermined hls hlat, ?_, ?_⟩ <;>
    rw [PhaseOut.lowSwitch_of_driven hls hlat] <;> split <;> decide

end Sys2Proof.Machine
end

section
/-! PROOFS. The memory (20_memory.md): what the SEQ's step writes and which pin shows it, a pending plan in list order, who writes the
outputs, and the environment's steps. -/

namespace Sys2Proof.Machine

/-! ### The SEQ's step (41_commutation_engine.md R130) -/

/-- A block with a next micro-op is busy: the converse of `exists_nextMicroOp`. -/
theorem busy_of_nextMicroOp {s : State} {m : MicroOp} (h : s.seqPlan[s.seqStep]? = some m) : s.busy = true :=
  s.busy_iff.mpr (List.getElem?_eq_some_iff.mp h).1

/-- The SEQ's turn performs the next micro-op. -/
theorem step_of_nextMicroOp {s : State} {m : MicroOp} (hw : s.cfg.wellFormed = true) (hu : s.nextTurn = .seq)
    (hm : s.seqPlan[s.seqStep]? = some m) :
    step s = .next ((s.nextInstant.withOut (m.perform s.cfg.hsOnLevel s.out)).withSeq s.seqPlan (s.seqStep + 1)) := by
  rw [step_of_wellFormed hw, hu, takeTurn, seqTurn_of_some (s := s.nextInstant) hm]
  rfl

/-! ### Who writes the outputs (20_memory.md R58) -/

/-- Settles O21: of the three things a step can do to the outputs, keeping them is excluded; the other two are the statement's. -/
theorem onlySeqAndResetWriteOutputs : Obligations.OnlySeqAndResetWriteOutputs := by
  intro s t h hne
  rcases step_out_cases h with ho | ⟨m, hu, hm, ho⟩ | ⟨hu, -⟩
  · exact absurd ho hne
  · exact .inr ⟨hu, busy_of_nextMicroOp hm, m, hm, ho⟩
  · exact .inl hu

/-! ### The pin a micro-op writes shows it at once (20_memory.md R53) -/

namespace PhaseOut

variable (x : PhaseOut) (wave : Bool)

theorem hsLevel_of_output (h : x.hsDir = .output) : x.hsLevel = .driven x.hsLat := by rw [hsLevel, h]

/-- While PWM owns the low-side pin, the pin follows the waveform (10_state.md R26). -/
theorem lsLevel_of_pwm (h : x.lsPwm = true) : x.lsLevel wave = .driven wave := by rw [lsLevel, if_pos h]

/-- A low-side pin that PWM does not own is a plain pin (10_state.md R26). -/
theorem lsLevel_of_not_pwm (h : x.lsPwm = false) :
    x.lsLevel wave = if x.lsDir = .output then .driven x.lsLat else .z := by
  cases hd : x.lsDir <;> simp [lsLevel, h, hd]

/-- A low-side pin that is an output is driven, by PWM or from its latch. -/
theorem lsLevel_of_output (h : x.lsDir = .output) : x.lsLevel wave = .driven (if x.lsPwm then wave else x.lsLat) := by
  cases hp : x.lsPwm with
  | true => exact x.lsLevel_of_pwm wave hp
  | false => rw [x.lsLevel_of_not_pwm wave hp, if_pos h]; rfl

end PhaseOut

/-- Settles O25: the SEQ's step performs the micro-op on its own phase only, and the level of the pin follows from the fields it has
written. -/
theorem microOpWritesOnePinAtOnce : Obligations.MicroOpWritesOnePinAtOnce := by
  intro s m hw hu hm
  refine ⟨_, step_of_nextMicroOp hw hu hm, fun q hq => m.get_perform_ne _ _ hq, ?_⟩
  have hget := m.get_perform_phase s.cfg.hsOnLevel s.out
  cases m with
  | eh p => exact ⟨hget, (congrArg _ hget).trans (PhaseOut.hsLevel_of_output _ rfl)⟩
  | dh p => exact ⟨hget, (congrArg _ hget).trans (PhaseOut.hsLevel_of_output _ rfl)⟩
  | el p => exact ⟨hget, (congrArg _ hget).trans (PhaseOut.lsLevel_of_pwm _ _ rfl)⟩
  | dl1 p => exact ⟨hget, (congrArg _ hget).trans (PhaseOut.lsLevel_of_output _ _ rfl)⟩
  | dl2 p => exact ⟨hget, (congrArg _ hget).trans (PhaseOut.lsLevel_of_not_pwm _ _ rfl)⟩

/-! ### A pending plan (20_memory.md R57) -/

/-- The state after the next `k` micro-ops of the plan in progress, one an instant. -/
def State.afterMicroOps (s : State) (k : Nat) : State :=
  { s with
    out := performAll s.cfg.hsOnLevel (s.pending.take k) s.out
    seqStep := s.seqStep + k
    instant := s.instant + k }

/-- The pending micro-op at place `k` is the plan's next one after `k` steps of the SEQ. -/
theorem State.getElem?_pending (s : State) (k : Nat) : s.pending[k]? = s.seqPlan[s.seqStep + k]? := List.getElem?_drop

/-- Performing one more micro-op of a list performs it after those before it. -/
theorem performAll_take_succ (on : Bool) {ms : List MicroOp} {k : Nat} {m : MicroOp} (o : Outputs) (h : ms[k]? = some m) :
    performAll on (ms.take (k + 1)) o = m.perform on (performAll on (ms.take k) o) := by
  rw [List.take_add_one, h, performAll_append]
  rfl

/-- With no turn pending the SEQ's step leads from the state after `k` micro-ops to the one after `k + 1`. -/
theorem step_afterMicroOps {s : State} {k : Nat} (hw : s.cfg.wellFormed = true) (ht : s.turns = []) (hk : k < s.pending.length) :
    step (s.afterMicroOps k) = .next (s.afterMicroOps (k + 1)) := by
  have hm : s.pending[k]? = some s.pending[k] := List.getElem?_eq_getElem hk
  have hu : (s.afterMicroOps k).nextTurn = .seq := by rw [State.nextTurn, State.afterMicroOps, ht]
  have hout := performAll_take_succ s.cfg.hsOnLevel s.out hm
  have htail : s.turns.tail = s.turns := by rw [ht, List.tail_nil]
  rw [step_of_nextMicroOp (s := s.afterMicroOps k) hw hu (s.getElem?_pending k ▸ hm)]
  simp only [State.afterMicroOps, State.nextInstant, State.withOut, State.withSeq, hout, htail, Nat.add_assoc]

/-- Settles O36, by induction on the number of steps. -/
theorem pendingPlanRunsInListOrder : Obligations.PendingPlanRunsInListOrder := by
  intro s k hw ht hk
  change core.run k s = .next (s.afterMicroOps k)
  induction k with
  | zero => rfl
  | succ k ih => rw [run_add_of_next k 1 (ih (Nat.le_of_lt hk)), run_succ_of_next 0 (step_afterMicroOps hw ht hk), run_zero]

/-! ### The environment's steps (20_memory.md R63, 60_exceptions.md R167) -/

/-- Settles O18: the turn is taken at its place in the list, and writes the Hall input or nothing. -/
theorem environmentChangesNoBlockField : Obligations.EnvironmentChangesNoBlockField :=
  fun _ _ hw => ⟨fun _ h => step_of_turns hw h, fun h => step_of_turns hw h⟩

end Sys2Proof.Machine
end

section
/-! PROOFS. The encoding (30_encoding.md): what each part of the decoder accepts and what it refuses, decoder and encoder as inverses
of each other, the legal words, and a malformed word presented to an idle block. -/

namespace Sys2Proof

/-! ### Operands (30_encoding.md R73) -/

theorem decodePlain_eq_ok_iff {arg : BitVec 3} {j i : Instr} : decodePlain arg j = .ok i ↔ arg = 0 ∧ j = i := by
  rw [decodePlain]
  split
  · next h => simp only [reduceCtorEq, h, false_and]
  · next h => simp only [Except.ok.injEq, not_not.mp h, true_and]

theorem decodePlain_eq_error_iff {arg : BitVec 3} {j : Instr} {r : RefusedReason} :
    decodePlain arg j = .error r ↔ arg ≠ 0 ∧ .nonzeroReservedBits = r := by
  rw [decodePlain]
  split
  · next h => simp only [Except.error.injEq, h, ne_eq, not_false_eq_true, true_and]
  · next h => simp only [reduceCtorEq, h, false_and]

theorem decodeSector_eq_ok_iff {arg : BitVec 3} {s : Sector} : decodeSector arg = .ok s ↔ arg = s.index := by
  cases s <;> revert arg <;> decide

theorem decodeSector_eq_error_iff {arg : BitVec 3} {r : RefusedReason} :
    decodeSector arg = .error r ↔ (arg = 0b000 ∨ arg = 0b111) ∧ .badSector = r := by
  cases r <;> revert arg <;> decide

theorem decodePhase_eq_ok_iff {arg : BitVec 3} {p : Phase} : decodePhase arg = .ok p ↔ arg.extractLsb' 0 2 = p.code := by
  cases p <;> revert arg <;> decide

theorem decodePhase_eq_error_iff {arg : BitVec 3} {r : RefusedReason} :
    decodePhase arg = .error r ↔ arg.extractLsb' 0 2 = 0b11 ∧ .badPhase = r := by
  cases r <;> revert arg <;> decide

/-- `ARG` is its reserved bit and its phase field. -/
theorem phaseArg_eq_iff (arg : BitVec 3) (pp : BitVec 2) :
    arg = 0#1 ++ pp ↔ arg.getLsbD 2 = false ∧ arg.extractLsb' 0 2 = pp := by
  revert arg pp; decide

theorem except_map_eq_ok_iff {α β : Type} {x : Except RefusedReason α} {k : α → β} {b : β} :
    x.map k = .ok b ↔ ∃ a, x = .ok a ∧ k a = b := by
  cases x <;> simp [Except.map]

theorem except_map_eq_error_iff {α β : Type} {x : Except RefusedReason α} {k : α → β} {r : RefusedReason} :
    x.map k = .error r ↔ x = .error r := by
  cases x <;> simp [Except.map]

/-- A primitive's operand is `0pp`, with `pp` the code of its phase. -/
theorem decodePrimitive_eq_ok_iff {arg : BitVec 3} {k : Phase → Instr} {i : Instr} :
    decodePrimitive arg k = .ok i ↔ ∃ p : Phase, arg = 0#1 ++ p.code ∧ k p = i := by
  cases hb : arg.getLsbD 2 with
  | false => simp only [decodePrimitive, hb, Bool.false_eq_true, if_false, except_map_eq_ok_iff, decodePhase_eq_ok_iff,
      phaseArg_eq_iff, true_and]
  | true => simp only [decodePrimitive, hb, if_true, reduceCtorEq, phaseArg_eq_iff, Bool.true_eq_false, false_and, exists_false]

theorem decodePrimitive_eq_error_iff {arg : BitVec 3} {k : Phase → Instr} {r : RefusedReason} :
    decodePrimitive arg k = .error r ↔
      (arg.getLsbD 2 = true ∧ .nonzeroReservedBits = r) ∨ (arg = 0b011 ∧ .badPhase = r) := by
  have h3 : arg = 0b011 ↔ arg.getLsbD 2 = false ∧ arg.extractLsb' 0 2 = 0b11 := phaseArg_eq_iff arg 0b11
  cases hb : arg.getLsbD 2 with
  | false => simp only [decodePrimitive, hb, h3, Bool.false_eq_true, if_false, except_map_eq_error_iff, decodePhase_eq_error_iff,
      false_and, false_or, true_and]
  | true => simp only [decodePrimitive, hb, h3, if_true, Except.error.injEq, Bool.true_eq_false, false_and,
      or_false, true_and]

/-! ### The order of the checks (30_encoding.md R76) -/

/-- The cases of the decoder: a reserved opcode, a set reserved bit, and one case for each opcode. -/
theorem Cmd8.checkCases {P : Cmd8 → Prop}
    (reserved : ∀ f : Cmd8, f.op = 0x0 ∨ 0x8 ≤ f.op → P f)
    (zSet : ∀ f : Cmd8, ¬(f.op = 0x0 ∨ 0x8 ≤ f.op) → f.z = 1 → P f)
    (commutate : ∀ arg, P ⟨0x1, 0, arg⟩) (allOff : ∀ arg, P ⟨0x2, 0, arg⟩) (activateSector : ∀ arg, P ⟨0x3, 0, arg⟩)
    (enableHigh : ∀ arg, P ⟨0x4, 0, arg⟩) (disableHigh : ∀ arg, P ⟨0x5, 0, arg⟩)
    (enableLowPwm : ∀ arg, P ⟨0x6, 0, arg⟩) (disableLowPwm : ∀ arg, P ⟨0x7, 0, arg⟩) (f : Cmd8) : P f := by
  by_cases hop : f.op = 0x0 ∨ 0x8 ≤ f.op
  · exact reserved f hop
  by_cases hz : f.z = 1
  · exact zSet f hop hz
  obtain ⟨op, z, arg⟩ := f
  have hz0 : ∀ z : BitVec 1, z ≠ 1 → z = 0 := by decide
  have hops : ∀ op : BitVec 4, ¬(op = 0x0 ∨ 0x8 ≤ op) →
      op = 0x1 ∨ op = 0x2 ∨ op = 0x3 ∨ op = 0x4 ∨ op = 0x5 ∨ op = 0x6 ∨ op = 0x7 := by decide
  obtain rfl : z = 0 := hz0 z hz
  obtain rfl | rfl | rfl | rfl | rfl | rfl | rfl := hops op hop
  · exact commutate arg
  · exact allOff arg
  · exact activateSector arg
  · exact enableHigh arg
  · exact disableHigh arg
  · exact enableLowPwm arg
  · exact disableLowPwm arg

theorem decodeFields_of_reserved {f : Cmd8} (h : f.op = 0x0 ∨ 0x8 ≤ f.op) : decodeFields f = .error .reservedOpcode := by
  rw [decodeFields, if_pos h]

theorem decodeFields_of_z {f : Cmd8} (h : ¬(f.op = 0x0 ∨ 0x8 ≤ f.op)) (hz : f.z = 1) :
    decodeFields f = .error .nonzeroReservedBits := by
  rw [decodeFields, if_neg h, if_pos hz]

section Opcodes

variable (arg : BitVec 3)

theorem decodeFields_commutate : decodeFields ⟨0x1, 0, arg⟩ = decodePlain arg .commutate := rfl
theorem decodeFields_allOff : decodeFields ⟨0x2, 0, arg⟩ = decodePlain arg .allOff := rfl
theorem decodeFields_activateSector : decodeFields ⟨0x3, 0, arg⟩ = (decodeSector arg).map .activateSector := rfl
theorem decodeFields_enableHigh : decodeFields ⟨0x4, 0, arg⟩ = decodePrimitive arg .enableHigh := rfl
theorem decodeFields_disableHigh : decodeFields ⟨0x5, 0, arg⟩ = decodePrimitive arg .disableHigh := rfl
theorem decodeFields_enableLowPwm : decodeFields ⟨0x6, 0, arg⟩ = decodePrimitive arg .enableLowPwm := rfl
theorem decodeFields_disableLowPwm : decodeFields ⟨0x7, 0, arg⟩ = decodePrimitive arg .disableLowPwm := rfl

end Opcodes

/-! ### Decoder and encoder -/

/-- The fields of a command's word. -/
theorem ofWord_encode (i : Instr) : Cmd8.ofWord (encode i) = ⟨i.opcode, 0, i.arg⟩ :=
  (Cmd8.mk.injEq ..).mpr ⟨ofWord_encode_op i, ofWord_encode_z i, ofWord_encode_arg i⟩

/-- A word with the fields of a command's word is that word. -/
theorem eq_encode_of_ofWord {w : CmdWord} {i : Instr} (h : Cmd8.ofWord w = ⟨i.opcode, 0, i.arg⟩) : w = encode i := by
  rw [word_eq_fields w, h]; rfl

theorem decode_encode (i : Instr) : decode (encode i) = .ok i := by
  rw [decode, ofWord_encode]
  cases i with
  | commutate => rfl
  | allOff => rfl
  | activateSector s => cases s <;> rfl
  | enableHigh p => cases p <;> rfl
  | disableHigh p => cases p <;> rfl
  | enableLowPwm p => cases p <;> rfl
  | disableLowPwm p => cases p <;> rfl

/-- The decoder answers a command only for that command's fields. -/
theorem fields_of_decodeFields_eq_ok {f : Cmd8} {i : Instr} (h : decodeFields f = .ok i) : f = ⟨i.opcode, 0, i.arg⟩ := by
  cases f using Cmd8.checkCases with
  | reserved f hop => rw [decodeFields_of_reserved hop] at h; cases h
  | zSet f hop hz => rw [decodeFields_of_z hop hz] at h; cases h
  | commutate arg => obtain ⟨rfl, rfl⟩ := decodePlain_eq_ok_iff.mp h; rfl
  | allOff arg => obtain ⟨rfl, rfl⟩ := decodePlain_eq_ok_iff.mp h; rfl
  | activateSector arg =>
    obtain ⟨s, hs, rfl⟩ := except_map_eq_ok_iff.mp h
    obtain rfl := decodeSector_eq_ok_iff.mp hs
    rfl
  | enableHigh arg => obtain ⟨p, rfl, rfl⟩ := decodePrimitive_eq_ok_iff.mp h; rfl
  | disableHigh arg => obtain ⟨p, rfl, rfl⟩ := decodePrimitive_eq_ok_iff.mp h; rfl
  | enableLowPwm arg => obtain ⟨p, rfl, rfl⟩ := decodePrimitive_eq_ok_iff.mp h; rfl
  | disableLowPwm arg => obtain ⟨p, rfl, rfl⟩ := decodePrimitive_eq_ok_iff.mp h; rfl

/-- The encoder's words decode to their commands, and a word that decodes has the fields of its command's word. -/
theorem decode_eq_ok_iff {w : CmdWord} {i : Instr} : decode w = .ok i ↔ w = encode i := by
  constructor
  · intro h
    exact eq_encode_of_ofWord (fields_of_decodeFields_eq_ok h)
  · rintro rfl
    exact decode_encode i

/-- Settles O2, by `decode_eq_ok_iff`. -/
theorem decodeAndEncodeAreInverse : Obligations.DecodeAndEncodeAreInverse := fun _ _ => decode_eq_ok_iff

/-- Settles O1: each word is, bit by bit, the encoding of its command. -/
theorem writtenOutWordsDecode : Obligations.WrittenOutWordsDecode :=
  ⟨decode_encode .commutate, decode_encode .allOff, decode_encode (.activateSector .s1), decode_encode (.activateSector .s6),
    decode_encode (.enableHigh .a), decode_encode (.enableHigh .c), decode_encode (.disableHigh .b),
    decode_encode (.enableLowPwm .c), decode_encode (.disableLowPwm .a)⟩

/-- Settles O4, by evaluation of the decoder at the 256 words. -/
theorem twentyWordsAreLegal : Obligations.TwentyWordsAreLegal := by
  unfold Obligations.TwentyWordsAreLegal
  decide

/-! ### The defect a word is refused for (30_encoding.md R74, R76) -/

/-- The fields for which R76 reports a reason: the first check that fails. -/
def Cmd8.FirstDefect (f : Cmd8) : RefusedReason → Prop
  | .reservedOpcode => f.op = 0x0 ∨ 0x8 ≤ f.op
  | .nonzeroReservedBits =>
    f.op ≠ 0x0 ∧ f.op < 0x8 ∧ (f.z = 1 ∨ (f.op ≤ 0x2 ∧ f.arg ≠ 0) ∨ (0x4 ≤ f.op ∧ f.arg.getLsbD 2 = true))
  | .badPhase => 0x4 ≤ f.op ∧ f.op < 0x8 ∧ f.z = 0 ∧ f.arg = 0b011
  | .badSector => f.op = 0x3 ∧ f.z = 0 ∧ (f.arg = 0b000 ∨ f.arg = 0b111)
  | .busy => False
  | .badConfig => False
  | .foreignWriter => False

theorem Cmd8.firstDefect_iff_of_reserved {f : Cmd8} {r : RefusedReason} (h : f.op = 0x0 ∨ 0x8 ≤ f.op) :
    f.FirstDefect r ↔ .reservedOpcode = r := by
  have hops : ∀ op : BitVec 4, op = 0x0 ∨ 0x8 ≤ op →
      ¬(op ≠ 0x0 ∧ op < 0x8) ∧ ¬(0x4 ≤ op ∧ op < 0x8) ∧ op ≠ 0x3 := by decide
  obtain ⟨hlegal, hprimitive, hsector⟩ := hops f.op h
  cases r with
  | reservedOpcode => exact iff_of_true h rfl
  | nonzeroReservedBits => exact iff_of_false (fun ⟨h0, h8, _⟩ => hlegal ⟨h0, h8⟩) nofun
  | badPhase => exact iff_of_false (fun ⟨h4, h8, _⟩ => hprimitive ⟨h4, h8⟩) nofun
  | badSector => exact iff_of_false (fun ⟨h3, _⟩ => hsector h3) nofun
  | busy | badConfig | foreignWriter => exact iff_of_false id nofun

theorem Cmd8.firstDefect_iff_of_z {f : Cmd8} {r : RefusedReason} (h : ¬(f.op = 0x0 ∨ 0x8 ≤ f.op)) (hz : f.z = 1) :
    f.FirstDefect r ↔ .nonzeroReservedBits = r := by
  have hz0 : f.z ≠ 0 := by rw [hz]; decide
  obtain ⟨h0, h8⟩ := not_or.mp h
  cases r with
  | reservedOpcode => exact iff_of_false h nofun
  | nonzeroReservedBits => exact iff_of_true ⟨h0, BitVec.not_le.mp h8, .inl hz⟩ rfl
  | badPhase => exact iff_of_false (fun ⟨_, _, h, _⟩ => hz0 h) nofun
  | badSector => exact iff_of_false (fun ⟨_, h, _⟩ => hz0 h) nofun
  | busy | badConfig | foreignWriter => exact iff_of_false id nofun

theorem decodeFields_eq_error_iff {f : Cmd8} {r : RefusedReason} : decodeFields f = .error r ↔ f.FirstDefect r := by
  cases f using Cmd8.checkCases with
  | reserved f hop => rw [decodeFields_of_reserved hop, Cmd8.firstDefect_iff_of_reserved hop, Except.error.injEq]
  | zSet f hop hz => rw [decodeFields_of_z hop hz, Cmd8.firstDefect_iff_of_z hop hz, Except.error.injEq]
  | commutate arg => rw [decodeFields_commutate, decodePlain_eq_error_iff]; cases r <;> simp [Cmd8.FirstDefect]
  | allOff arg => rw [decodeFields_allOff, decodePlain_eq_error_iff]; cases r <;> simp [Cmd8.FirstDefect]
  | activateSector arg =>
    rw [decodeFields_activateSector, except_map_eq_error_iff, decodeSector_eq_error_iff]; cases r <;> simp [Cmd8.FirstDefect]
  | enableHigh arg => rw [decodeFields_enableHigh, decodePrimitive_eq_error_iff]; cases r <;> simp [Cmd8.FirstDefect]
  | disableHigh arg => rw [decodeFields_disableHigh, decodePrimitive_eq_error_iff]; cases r <;> simp [Cmd8.FirstDefect]
  | enableLowPwm arg => rw [decodeFields_enableLowPwm, decodePrimitive_eq_error_iff]; cases r <;> simp [Cmd8.FirstDefect]
  | disableLowPwm arg => rw [decodeFields_disableLowPwm, decodePrimitive_eq_error_iff]; cases r <;> simp [Cmd8.FirstDefect]

/-! ### Legal words (30_encoding.md R72, R75) -/

/-- Every command's word is legal: the family `LegalWord`, over the commands. -/
theorem wellFormed_ofWord_encode (i : Instr) : (Cmd8.ofWord (encode i)).wellFormed = true := by
  cases i with
  | commutate => exact Laws.LegalWord.commutate
  | allOff => exact Laws.LegalWord.allOff
  | activateSector s => exact Laws.LegalWord.activateSector s
  | enableHigh p => exact Laws.LegalWord.enableHigh p
  | disableHigh p => exact Laws.LegalWord.disableHigh p
  | enableLowPwm p => exact Laws.LegalWord.enableLowPwm p
  | disableLowPwm p => exact Laws.LegalWord.disableLowPwm p

section ArgLegal

variable {f : Cmd8}

theorem Cmd8.argLegal_of_reserved (h : f.op = 0x0 ∨ 0x8 ≤ f.op) : f.argLegal = false := by
  have hops : ∀ op : BitVec 4, op = 0x0 ∨ 0x8 ≤ op →
      ¬(op = 0x1 ∨ op = 0x2) ∧ op ≠ 0x3 ∧ ¬(op = 0x4 ∨ op = 0x5 ∨ op = 0x6 ∨ op = 0x7) := by decide
  obtain ⟨hplain, hsector, hprimitive⟩ := hops f.op h
  rw [argLegal, if_neg hplain, if_neg hsector, if_neg hprimitive]

theorem Cmd8.argLegal_of_plain (h0 : f.op ≠ 0x0) (h2 : f.op ≤ 0x2) : f.argLegal = decide (f.arg = 0) := by
  have hops : ∀ op : BitVec 4, op ≠ 0x0 → op ≤ 0x2 → op = 0x1 ∨ op = 0x2 := by decide
  rw [argLegal, if_pos (hops f.op h0 h2)]

theorem Cmd8.argLegal_of_sector (h : f.op = 0x3) : f.argLegal = decide (f.arg ≠ 0 ∧ f.arg ≠ 7) := by
  rw [argLegal, if_neg (by rw [h]; decide), if_pos h]

theorem Cmd8.argLegal_of_primitive (h4 : 0x4 ≤ f.op) (h8 : f.op < 0x8) : f.argLegal = decide (f.arg < 3) := by
  have hops : ∀ op : BitVec 4, 0x4 ≤ op → op < 0x8 →
      ¬(op = 0x1 ∨ op = 0x2) ∧ op ≠ 0x3 ∧ (op = 0x4 ∨ op = 0x5 ∨ op = 0x6 ∨ op = 0x7) := by decide
  obtain ⟨hplain, hsector, hprimitive⟩ := hops f.op h4 h8
  rw [argLegal, if_neg hplain, if_neg hsector, if_pos hprimitive]

/-- A word with a defect is not legal: its `Z` is 1, or its operand is not one its opcode takes. -/
theorem Cmd8.FirstDefect.z_or_argLegal {r : RefusedReason} (h : f.FirstDefect r) : f.z = 1 ∨ f.argLegal = false := by
  cases r with
  | reservedOpcode => exact .inr (argLegal_of_reserved h)
  | nonzeroReservedBits =>
    obtain ⟨h0, h8, hz | ⟨h2, harg⟩ | ⟨h4, hbit⟩⟩ := h
    · exact .inl hz
    · exact .inr (by rw [argLegal_of_plain h0 h2, decide_eq_false harg])
    · have hlt : ∀ arg : BitVec 3, arg.getLsbD 2 = true → ¬arg < 3 := by decide
      exact .inr (by rw [argLegal_of_primitive h4 h8, decide_eq_false (hlt f.arg hbit)])
  | badPhase =>
    obtain ⟨h4, h8, -, harg⟩ := h
    exact .inr (by rw [argLegal_of_primitive h4 h8, harg]; rfl)
  | badSector =>
    obtain ⟨hop, -, harg⟩ := h
    exact .inr (by rw [argLegal_of_sector hop]; rcases harg with harg | harg <;> rw [harg] <;> rfl)
  | busy | badConfig | foreignWriter => exact h.elim

theorem Cmd8.FirstDefect.wellFormed_eq_false {r : RefusedReason} (h : f.FirstDefect r) : f.wellFormed = false := by
  rcases h.z_or_argLegal with hz | harg
  · simp [wellFormed, hz]
  · simp [wellFormed, harg]

end ArgLegal

theorem exists_decode_eq_ok_iff {w : CmdWord} : (∃ i, decode w = .ok i) ↔ (Cmd8.ofWord w).wellFormed = true := by
  constructor
  · rintro ⟨i, hi⟩
    rw [decode_eq_ok_iff.mp hi]
    exact wellFormed_ofWord_encode i
  · intro hw
    cases hd : decode w with
    | ok i => exact ⟨i, rfl⟩
    | error r =>
      have hdefect := decodeFields_eq_error_iff.mp hd
      rw [hdefect.wellFormed_eq_false] at hw; cases hw

/-- `Z` is bit 3 of the word (30_encoding.md R70). -/
theorem ofWord_z_eq_one_iff {w : CmdWord} : (Cmd8.ofWord w).z = 1 ↔ w.getLsbD 3 = true := by
  revert w; decide

theorem ofWord_z_eq_zero_iff {w : CmdWord} : (Cmd8.ofWord w).z = 0 ↔ w.getLsbD 3 = false := by
  revert w; decide

/-- The operand's reserved bit is bit 2 of the word (30_encoding.md R70). -/
theorem ofWord_arg_getLsbD_two {w : CmdWord} : (Cmd8.ofWord w).arg.getLsbD 2 = w.getLsbD 2 := by
  simp [Cmd8.ofWord]

/-- Settles O3: a refusal's reason is the word's first defect, and a word without one is legal. -/
theorem decoderReportsTheFirstDefect : Obligations.DecoderReportsTheFirstDefect := by
  intro w
  have hdefect (r : RefusedReason) : decode w = .error r ↔ (Cmd8.ofWord w).FirstDefect r := decodeFields_eq_error_iff
  refine ⟨hdefect .reservedOpcode, ?_, ?_, ?_, exists_decode_eq_ok_iff, (hdefect .busy).mp, (hdefect .badConfig).mp,
    (hdefect .foreignWriter).mp⟩
  · rw [hdefect, Cmd8.FirstDefect, ofWord_z_eq_one_iff, ofWord_arg_getLsbD_two]; rfl
  · rw [hdefect, Cmd8.FirstDefect, ofWord_z_eq_zero_iff]; rfl
  · rw [hdefect, Cmd8.FirstDefect, ofWord_z_eq_zero_iff]; rfl

end Sys2Proof

namespace Sys2Proof.Machine

/-! ### A malformed word presented to an idle block (30_encoding.md R74) -/

/-- Settles O15: the HOST's turn is taken at its place in the list, and its issue raises the decoder's reason. -/
theorem malformedWordIsNotAccepted : Obligations.MalformedWordIsNotAccepted := by
  intro s w rest r hw hb ht hd
  rw [step_of_turns hw ht]
  exact issue_of_error hb hd

end Sys2Proof.Machine
end

section
/-! PROOFS. The phase driver (40_phase_driver.md): micro-ops performed twice and in either order, the plan a primitive latches, a
command from its presentation to the end of its plan, and the primitives' effect on their pin. -/

namespace Sys2Proof.Machine

/-! ### Micro-ops performed twice, and in either order (40_phase_driver.md R106, 20_memory.md R54) -/

namespace MicroOp

variable (on : Bool)

/-- What a micro-op writes does not depend on what it overwrites. -/
theorem write_write (m : MicroOp) (x : PhaseOut) : m.write on (m.write on x) = m.write on x := by
  cases m <;> rfl

theorem perform_perform (m : MicroOp) (o : Outputs) : m.perform on (m.perform on o) = m.perform on o := by
  refine Outputs.ext_get fun q => ?_
  simp only [get_perform]
  split
  · exact m.write_write on (o.get q)
  · rfl

variable {on}

/-- A micro-op of the high side makes its pin an output with a level of its own. -/
theorem exists_write_of_highSide {m : MicroOp} (h : m.isHighSide = true) :
    ∃ l, ∀ x, m.write on x = { x with hsDir := .output, hsLat := l } := by
  cases m with
  | eh p => exact ⟨on, fun _ => rfl⟩
  | dh p => exact ⟨!on, fun _ => rfl⟩
  | el p => cases h
  | dl1 p => cases h
  | dl2 p => cases h

/-- A micro-op of the low side neither reads nor writes the high side's fields. -/
theorem write_withHighSide {n : MicroOp} (h : n.isHighSide = false) (x : PhaseOut) (d : Dir) (l : Bool) :
    n.write on { x with hsDir := d, hsLat := l } = { n.write on x with hsDir := d, hsLat := l } := by
  cases n with
  | eh p => cases h
  | dh p => cases h
  | el p => rfl
  | dl1 p => rfl
  | dl2 p => rfl

theorem write_comm_of_highSide {m n : MicroOp} (hm : m.isHighSide = true) (hn : n.isHighSide = false) (x : PhaseOut) :
    m.write on (n.write on x) = n.write on (m.write on x) := by
  obtain ⟨l, hwrite⟩ := exists_write_of_highSide (on := on) hm
  calc m.write on (n.write on x)
      = { n.write on x with hsDir := .output, hsLat := l } := hwrite (n.write on x)
    _ = n.write on { x with hsDir := .output, hsLat := l } := (write_withHighSide hn x .output l).symm
    _ = n.write on (m.write on x) := by rw [hwrite x]

/-- Micro-ops of different pins write different fields of a phase. -/
theorem write_comm {m n : MicroOp} (h : m.isHighSide ≠ n.isHighSide) (x : PhaseOut) :
    m.write on (n.write on x) = n.write on (m.write on x) := by
  cases hm : m.isHighSide with
  | true =>
    have hn : n.isHighSide = false := Bool.eq_false_of_not_eq_true (hm ▸ h.symm)
    exact write_comm_of_highSide hm hn x
  | false =>
    have hn : n.isHighSide = true := Bool.eq_true_of_not_eq_false (hm ▸ h.symm)
    exact (write_comm_of_highSide hn hm x).symm

/-- Micro-ops commute when their writes do, which matters only on one and the same phase. -/
theorem perform_comm {m n : MicroOp} (h : m.phase = n.phase → ∀ x, m.write on (n.write on x) = n.write on (m.write on x))
    (o : Outputs) : m.perform on (n.perform on o) = n.perform on (m.perform on o) := by
  refine Outputs.ext_get fun q => ?_
  simp only [get_perform]
  by_cases hm : q = m.phase
  · by_cases hn : q = n.phase
    · simp only [if_pos hm, if_pos hn, h (hm.symm.trans hn)]
    · simp only [if_pos hm, if_neg hn]
  · simp only [if_neg hm]

end MicroOp

/-- Settles O26: a second write repeats the first; two micro-ops write different phases, or different fields of one phase. -/
theorem microOpsAreIdempotentAndIndependent : Obligations.MicroOpsAreIdempotentAndIndependent := by
  refine ⟨MicroOp.perform_perform, fun on m n o h => MicroOp.perform_comm (fun hphase => ?_) o⟩
  exact MicroOp.write_comm (h.resolve_left (not_not_intro hphase))

/-! ### The plan a primitive latches (40_phase_driver.md R101 to R105) -/

/-- Settles O9: the plan of a primitive command is `PRIM(k, p)`. -/
theorem primitiveCommandsLatchTheirPlan : Obligations.PrimitiveCommandsLatchTheirPlan :=
  fun _ p hw hb => ⟨exec_of_idle (.enableHigh p) hw hb, exec_of_idle (.disableHigh p) hw hb,
    exec_of_idle (.enableLowPwm p) hw hb, exec_of_idle (.disableLowPwm p) hw hb⟩

/-! ### A command from its presentation to the end of its plan (41_commutation_engine.md R130, R131) -/

/-- The number the word of a command with a phase operand is laid out as (30_encoding.md R72). -/
theorem toNat_encode_of_phaseArg {i : Instr} {p : Phase} (h : i.arg = 0#1 ++ p.code) :
    (encode i).toNat = 0x10 * i.opcode.toNat + p.code.toNat := by
  have hlow : (0#1 ++ (0#1 ++ p.code)).toNat = p.code.toNat := by cases p <;> rfl
  rw [encode, h, BitVec.toNat_append, ← Nat.shiftLeft_add_eq_or_of_lt (BitVec.isLt _), hlow, Nat.shiftLeft_eq, Nat.mul_comm]

/-- The state in which an idle block has accepted a command that was presented to it. -/
def State.afterAcceptance (s : State) (i : Instr) : State :=
  { s with seqPlan := s.planOf i, seqStep := 0, instant := s.instant + 1 }

theorem State.pending_afterAcceptance (s : State) (i : Instr) : (s.afterAcceptance i).pending = s.planOf i := rfl

/-- The word of a command, put in front of the turns of an idle block, is accepted. -/
theorem step_withFetchWord_encode {s : State} (i : Instr) (hw : s.cfg.wellFormed = true) (hb : s.busy = false) :
    step (s.withFetchWord 8 (encode i).toNat) = .next (s.afterAcceptance i) := by
  rw [step_withFetchWord 8 _ hw, wordOfNat_toNat,
    issue_of_ok (s := { s with instant := s.instant + 1 }) hb (decode_encode i)]
  exact exec_of_idle i hw hb

/-- A block that has performed all of its pending micro-ops is idle. -/
theorem State.busy_afterMicroOps_length_pending (s : State) : (s.afterMicroOps s.pending.length).busy = false := by
  refine (State.not_busy_iff _).mpr ?_
  simp only [State.afterMicroOps, State.pending, List.length_drop]
  omega

/-- A command presented to an idle block is performed to the end of its plan when no other agent acts; nothing but the outputs and the
sequencer is written. -/
theorem run_command {s : State} (i : Instr) (hw : s.cfg.wellFormed = true) (hb : s.busy = false) (ht : s.turns = []) :
    ∃ t : State, core.run ((s.planOf i).length + 1) (s.withFetchWord 8 (encode i).toNat) = .next t ∧ t.busy = false
      ∧ t.out = performAll s.cfg.hsOnLevel (s.planOf i) s.out
      ∧ t.refused = s.refused ∧ t.hallIn = s.hallIn ∧ t.cfg = s.cfg := by
  refine ⟨(s.afterAcceptance i).afterMicroOps (s.planOf i).length, ?_,
    (s.afterAcceptance i).busy_afterMicroOps_length_pending, ?_, rfl, rfl, rfl⟩
  · rw [run_succ_of_next _ (step_withFetchWord_encode i hw hb)]
    exact pendingPlanRunsInListOrder (s.afterAcceptance i) _ hw ht (Nat.le_refl _)
  · rw [State.afterMicroOps, State.pending_afterAcceptance, List.take_length]
    rfl

/-! ### The primitives from presentation to end -/

/-- Settles O27: the plan of each of the three commands is a single micro-op. -/
theorem oneStepPrimitivesWriteTheirPin : Obligations.OneStepPrimitivesWriteTheirPin := by
  intro s p hw hb ht
  have hHigh : (encode (.enableHigh p)).toNat = 0x40 + p.code.toNat := toNat_encode_of_phaseArg rfl
  have hOff : (encode (.disableHigh p)).toNat = 0x50 + p.code.toNat := toNat_encode_of_phaseArg rfl
  have hLow : (encode (.enableLowPwm p)).toNat = 0x60 + p.code.toNat := toNat_encode_of_phaseArg rfl
  rw [← hHigh, ← hOff, ← hLow]
  exact ⟨run_command (.enableHigh p) hw hb ht, run_command (.disableHigh p) hw hb ht, run_command (.enableLowPwm p) hw hb ht⟩

/-- Of two writes to a phase the second stays. -/
theorem Outputs.set_set_same (o : Outputs) (p : Phase) (v w : PhaseOut) : (o.set p v).set p w = o.set p w := by
  cases p <;> rfl

/-- A micro-op performed after a write to its phase acts on what was written. -/
theorem MicroOp.perform_set (on : Bool) (m : MicroOp) (o : Outputs) (v : PhaseOut) :
    m.perform on (o.set m.phase v) = o.set m.phase (m.write on v) := by
  rw [perform, Outputs.get_set_same, Outputs.set_set_same]

/-- What `DL1` and `DL2` of a phase leave (40_phase_driver.md R104). -/
theorem performAll_disableLowPwm (on : Bool) (p : Phase) (o : Outputs) :
    performAll on (primPlan .disableLowPwm p) o = o.set p { o.get p with lsDir := .output, lsLat := true, lsPwm := false } :=
  (MicroOp.dl2 p).perform_set on o { o.get p with lsDir := .output, lsLat := true }

/-- A low-side pin that is pre-driven to its off level follows PWM or shows that level (10_state.md R26). -/
theorem PhaseOut.lsLevel_of_preDriven {x : PhaseOut} (wave : Bool) (hd : x.lsDir = .output) (hl : x.lsLat = true) :
    x.lsLevel wave = if x.lsPwm then .driven wave else .driven true := by
  rw [x.lsLevel_of_output wave hd, hl, apply_ite PinLevel.driven]

/-- Settles O28: acceptance, `DL1`, `DL2`, one step each; from `DL1` on the pin is pre-driven, and from `DL2` on PWM does not own it. -/
theorem disableLowPwmPreDrivesThenReleases : Obligations.DisableLowPwmPreDrivesThenReleases := by
  intro s p hw hb ht
  have hword : (encode (.disableLowPwm p)).toNat = 0x70 + p.code.toNat := toNat_encode_of_phaseArg rfl
  let t := s.afterAcceptance (.disableLowPwm p)
  have hdl1 : step t = .next (t.afterMicroOps 1) := step_afterMicroOps (s := t) (k := 0) hw ht Nat.two_pos
  have hdl2 : step (t.afterMicroOps 1) = .next (t.afterMicroOps 2) :=
    step_afterMicroOps (s := t) (k := 1) hw ht Nat.one_lt_two
  have hout1 : (t.afterMicroOps 1).out = s.out.set p { s.out.get p with lsDir := .output, lsLat := true } := rfl
  have hout2 : (t.afterMicroOps 2).out
      = s.out.set p { s.out.get p with lsDir := .output, lsLat := true, lsPwm := false } :=
    performAll_disableLowPwm s.cfg.hsOnLevel p s.out
  refine ⟨t, t.afterMicroOps 1, t.afterMicroOps 2, hword ▸ step_withFetchWord_encode _ hw hb, hdl1, hdl2, rfl, hout1, rfl, ?_,
    hout2, rfl, ?_, rfl, rfl, rfl⟩
  · rw [State.lsLevel, hout1, Outputs.get_set_same]
    exact PhaseOut.lsLevel_of_preDriven _ rfl rfl
  · rw [State.lsLevel, hout2, Outputs.get_set_same]
    exact PhaseOut.lsLevel_of_preDriven _ rfl rfl

end Sys2Proof.Machine
end

section
/-! PROOFS. The Commutation Engine's inputs (41_commutation_engine.md R120 to R124): the Hall Code and the masked pattern, the ROM
lookup and the source's scan of the Sector Table. -/

namespace Sys2Proof

namespace Config

variable {cfg : Config}

/-! ### The Hall Code (41_commutation_engine.md R120) -/

/-- The bits of a word of three bits. -/
theorem getLsbD_threeBits (c b a : Bool) :
    (BitVec.ofBool c ++ BitVec.ofBool b ++ BitVec.ofBool a).getLsbD 0 = a
      ∧ (BitVec.ofBool c ++ BitVec.ofBool b ++ BitVec.ofBool a).getLsbD 1 = b
      ∧ (BitVec.ofBool c ++ BitVec.ofBool b ++ BitVec.ofBool a).getLsbD 2 = c := by
  revert c b a; decide

theorem hallCode_getLsbD (v : BitVec cfg.wIn) :
    (cfg.hallCode v).getLsbD 0 = v.getLsbD cfg.hallPosA ∧ (cfg.hallCode v).getLsbD 1 = v.getLsbD cfg.hallPosB
      ∧ (cfg.hallCode v).getLsbD 2 = v.getLsbD cfg.hallPosC :=
  getLsbD_threeBits _ _ _

/-- Equal sensors give equal codes, and conversely. -/
theorem hallCode_eq_iff {v v' : BitVec cfg.wIn} :
    cfg.hallCode v = cfg.hallCode v' ↔ v.getLsbD cfg.hallPosA = v'.getLsbD cfg.hallPosA
      ∧ v.getLsbD cfg.hallPosB = v'.getLsbD cfg.hallPosB ∧ v.getLsbD cfg.hallPosC = v'.getLsbD cfg.hallPosC := by
  constructor
  · intro h
    obtain ⟨ha, hb, hc⟩ := hallCode_getLsbD v
    obtain ⟨ha', hb', hc'⟩ := hallCode_getLsbD v'
    rw [← ha, ← hb, ← hc, ← ha', ← hb', ← hc', h]
    exact ⟨rfl, rfl, rfl⟩
  · rintro ⟨ha, hb, hc⟩
    rw [hallCode, hallCode, ha, hb, hc]

/-- The mask keeps the sensors' bits and clears every other one. -/
theorem getLsbD_masked (v : BitVec cfg.wIn) (i : Nat) :
    (cfg.masked v).getLsbD i = (v.getLsbD i && decide (i = cfg.hallPosA ∨ i = cfg.hallPosB ∨ i = cfg.hallPosC)) := by
  by_cases hi : i < cfg.wIn
  · simp [masked, hallMask, hi, Bool.or_assoc]
  · simp [BitVec.getLsbD_of_ge _ i (Nat.not_lt.mp hi)]

theorem masked_eq_iff {v v' : BitVec cfg.wIn} :
    cfg.masked v = cfg.masked v' ↔ v.getLsbD cfg.hallPosA = v'.getLsbD cfg.hallPosA
      ∧ v.getLsbD cfg.hallPosB = v'.getLsbD cfg.hallPosB ∧ v.getLsbD cfg.hallPosC = v'.getLsbD cfg.hallPosC := by
  constructor
  · intro h
    have hbit (i : Nat) : (cfg.masked v).getLsbD i = (cfg.masked v').getLsbD i := by rw [h]
    simp only [getLsbD_masked] at hbit
    exact ⟨by simpa using hbit cfg.hallPosA, by simpa using hbit cfg.hallPosB, by simpa using hbit cfg.hallPosC⟩
  · rintro ⟨ha, hb, hc⟩
    refine BitVec.eq_of_getLsbD_eq fun i _ => ?_
    rw [getLsbD_masked, getLsbD_masked]
    by_cases hi : i = cfg.hallPosA ∨ i = cfg.hallPosB ∨ i = cfg.hallPosC
    · rcases hi with rfl | rfl | rfl <;> simp only [ha, hb, hc]
    · simp only [hi, decide_false, Bool.and_false]

/-! ### The ROM (41_commutation_engine.md R121, R122, R124) -/

/-- Every code but `000` and `111` is valid. -/
theorem mem_validCodes_iff {c : BitVec 3} : c ∈ validCodes ↔ c ≠ 0b000 ∧ c ≠ 0b111 := by
  revert c; decide

theorem index_mem_validCodes (x : Sector) : x.index ∈ validCodes := by
  cases x <;> decide

theorem sectorOfBits_eq_sector_iff {v : BitVec 3} {x : Sector} : sectorOfBits v = .sector x ↔ v = x.index := by
  cases x <;> revert v <;> decide

theorem sectorOfBits_eq_invalid_iff {v : BitVec 3} : sectorOfBits v = .invalid ↔ v = 0b000 ∨ v = 0b111 := by
  revert v; decide

/-- Of the values of 3 bits only 7 is not the representation of what it stands for (41_commutation_engine.md R124). -/
theorem bits_sectorOfBits {v : BitVec 3} (h : v ≠ 7) : (sectorOfBits v).bits = v := by
  revert v; decide

section Rom

variable (hw : cfg.wellFormed = true)
include hw

/-- The entry of a code is a sector's index exactly when the code is valid (41_commutation_engine.md R122). -/
theorem romRead_mem_validCodes_iff {c : BitVec 3} : cfg.romRead c ∈ validCodes ↔ c ∈ validCodes := by
  constructor
  · intro h
    obtain ⟨h0, h7⟩ := rom_ends hw
    refine mem_validCodes_iff.mpr ⟨?_, ?_⟩ <;> rintro rfl
    · rw [h0] at h; exact absurd h (by decide)
    · rw [h7] at h; exact absurd h (by decide)
  · intro h
    exact (rom_perm hw).mem_iff.mp (List.mem_map_of_mem h)

theorem romRead_of_not_mem_validCodes {c : BitVec 3} (h : c ∉ validCodes) : cfg.romRead c = 0 := by
  obtain ⟨h0, h7⟩ := rom_ends hw
  have hc : c = 0b000 ∨ c = 0b111 := by
    rw [mem_validCodes_iff] at h; tauto
  rcases hc with rfl | rfl
  · exact h0
  · exact h7

theorem romRead_ne_seven (c : BitVec 3) : cfg.romRead c ≠ 7 := by
  by_cases h : c ∈ validCodes
  · exact (mem_validCodes_iff.mp ((romRead_mem_validCodes_iff hw).mpr h)).2
  · rw [romRead_of_not_mem_validCodes hw h]; decide

/-- No two valid codes have one entry. -/
theorem romRead_injOn {c c' : BitVec 3} (hc : c ∈ validCodes) (hc' : c' ∈ validCodes) (h : cfg.romRead c = cfg.romRead c') :
    c = c' := by
  have hnodup : (validCodes.map cfg.romRead).Nodup := (rom_perm hw).nodup_iff.mpr (by decide)
  exact List.inj_on_of_nodup_map hnodup hc hc' h

/-- Each sector's index is the entry of one and only one code. -/
theorem exists_forall_romRead_eq_index_iff (x : Sector) : ∃ c ∈ validCodes, ∀ c', cfg.romRead c' = x.index ↔ c' = c := by
  obtain ⟨c, hc, hx⟩ := List.mem_map.mp ((rom_perm hw).mem_iff.mpr (index_mem_validCodes x))
  refine ⟨c, hc, fun c' => ⟨fun h => ?_, fun h => h ▸ hx⟩⟩
  have hc' : c' ∈ validCodes := (romRead_mem_validCodes_iff hw).mp (h ▸ index_mem_validCodes x)
  exact romRead_injOn hw hc' hc (h.trans hx.symm)

theorem bits_sectorOf (c : BitVec 3) : (cfg.sectorOf c).bits = cfg.romRead c := bits_sectorOfBits (romRead_ne_seven hw c)

theorem sectorOf_eq_invalid_iff {c : BitVec 3} : cfg.sectorOf c = .invalid ↔ c = 0b000 ∨ c = 0b111 := by
  have hvalid := (romRead_mem_validCodes_iff hw (c := c)).not
  rw [mem_validCodes_iff, mem_validCodes_iff] at hvalid
  rw [sectorOf, sectorOfBits_eq_invalid_iff]
  tauto

/-! ### The scan of the Sector Table (41_commutation_engine.md R122) -/

/-- The Sector Table is the inverse of the ROM. -/
theorem tableEntry_eq_some_iff {x : Sector} {c : BitVec 3} : cfg.tableEntry x = some c ↔ cfg.romRead c = x.index := by
  obtain ⟨d, hd, hiff⟩ := exists_forall_romRead_eq_index_iff hw x
  have hfound : (cfg.tableEntry x).isSome := List.find?_isSome.mpr ⟨d, hd, beq_iff_eq.mpr ((hiff d).mpr rfl)⟩
  obtain ⟨e, he⟩ := Option.isSome_iff_exists.mp hfound
  have hed : e = d := (hiff e).mp (beq_iff_eq.mp (List.find?_some (p := fun c => cfg.romRead c == x.index) he))
  rw [he, hed, Option.some.injEq, hiff, eq_comm]

theorem sectorOf_eq_sector_iff_tableEntry {c : BitVec 3} {x : Sector} : cfg.sectorOf c = .sector x ↔ cfg.tableEntry x = some c :=
  sectorOfBits_eq_sector_iff.trans (tableEntry_eq_some_iff hw).symm

theorem scan_eq_sectorOf (c : BitVec 3) : cfg.scan c = cfg.sectorOf c := by
  rw [scan]
  split
  · next x hfound =>
    have hx : cfg.tableEntry x = some c := beq_iff_eq.mp (List.find?_some (p := fun s => cfg.tableEntry s == some c) hfound)
    exact ((sectorOf_eq_sector_iff_tableEntry hw).mpr hx).symm
  · next hnone =>
    cases hx : cfg.sectorOf c with
    | invalid => rfl
    | sector x =>
      have htest := List.find?_eq_none.mp hnone x x.mem_all
      exact absurd (beq_iff_eq.mpr ((sectorOf_eq_sector_iff_tableEntry hw).mp hx)) htest

end Rom

end Config

/-! ### The obligations of the Hall decoder and the sector mapper -/

/-- Settles O29: masked patterns and codes are both equal exactly when the three sensors are. -/
theorem hallCodeAndMaskedPatternDetermineEachOther : Obligations.HallCodeAndMaskedPatternDetermineEachOther :=
  fun _ v _ => ⟨Config.hallCode_getLsbD v, Config.masked_eq_iff.trans Config.hallCode_eq_iff.symm⟩

/-- Settles O30: the Sector Table inverts the ROM, and the ROM holds no 7. -/
theorem tableScanAgreesWithRomLookup : Obligations.TableScanAgreesWithRomLookup :=
  fun _ c hw => ⟨Config.scan_eq_sectorOf hw c, Config.bits_sectorOf hw c⟩

/-- Settles O31: the ROM's entries at the valid codes are the sectors' indexes, each once. -/
theorem sixCodesReachTheSixSectors : Obligations.SixCodesReachTheSixSectors := by
  intro cfg hw
  refine ⟨fun c => Config.sectorOf_eq_invalid_iff hw, fun x => ?_⟩
  obtain ⟨c, -, hc⟩ := Config.exists_forall_romRead_eq_index_iff hw x
  exact ⟨c, fun c' => Config.sectorOfBits_eq_sector_iff.trans (hc c')⟩

/-- Settles O32, by evaluation of the default build's decoder and table. -/
theorem defaultTableFollowsRotationOrder : Obligations.DefaultTableFollowsRotationOrder := by
  unfold Obligations.DefaultTableFollowsRotationOrder
  decide

end Sys2Proof
end

section
/-! PROOFS. The Commutation Engine's targets and plans (41_commutation_engine.md R125 to R129): the phases a sector's target turns on,
the micro-ops a plan has for each phase, and the order in which it has them. -/

namespace Sys2Proof

/-! ### Targets (41_commutation_engine.md R126, R127) -/

@[simp] theorem Config.get_target_sector (cfg : Config) (x : Sector) (p : Phase) :
    (cfg.target (.sector x)).get p = cfg.phaseTarget x p := by
  cases p <;> rfl

@[simp] theorem Target.get_allOff (p : Phase) : Target.allOff.get p = ⟨false, false⟩ := by
  cases p <;> rfl

/-- Of three phases, one is left beside any two. -/
theorem Phase.exists_ne_ne (p q : Phase) : ∃ r, r ≠ p ∧ r ≠ q := by
  have h : ∃ r ∈ Phase.all, r ≠ p ∧ r ≠ q := by cases p <;> cases q <;> decide
  exact h.imp fun r hr => hr.2

/-- Settles O33: the sector's target compares each phase with the source and the sink, which differ. -/
theorem sectorTargetActivatesTwoPhases : Obligations.SectorTargetActivatesTwoPhases := by
  intro cfg x hw
  refine ⟨fun p => ?_, Config.src_ne_snk hw x, ?_, rfl, Target.get_allOff⟩
  · rw [Config.get_target_sector]; exact ⟨rfl, rfl⟩
  · obtain ⟨p, hsrc, hsnk⟩ := Phase.exists_ne_ne (cfg.src x) (cfg.snk x)
    exact ⟨p, hsrc, hsnk, by simp [Config.phaseTarget, hsrc, hsnk]⟩

/-! ### How many phases meet a test -/

theorem Phase.countP_beq (p : Phase) : Phase.all.countP (· == p) = 1 := by
  cases p <;> rfl

/-- One phase is left beside two different ones. -/
theorem Phase.countP_ne_ne {p q : Phase} (h : p ≠ q) : Phase.all.countP (fun r => !(r == p) && !(r == q)) = 1 := by
  revert h; cases p <;> cases q <;> decide

namespace Machine

/-! ### The micro-ops of a plan, phase by phase (41_commutation_engine.md R128) -/

/-- The micro-ops of a list that act on phase `p`, in the list's order. -/
def ofPhase (p : Phase) (ms : List MicroOp) : List MicroOp := ms.filter fun m => m.phase = p

theorem mem_ofPhase {p : Phase} {ms : List MicroOp} {m : MicroOp} : m ∈ ofPhase p ms ↔ m ∈ ms ∧ m.phase = p := by
  simp [ofPhase]

theorem ofPhase_append (p : Phase) (ms ns : List MicroOp) : ofPhase p (ms ++ ns) = ofPhase p ms ++ ofPhase p ns :=
  List.filter_append ms ns

/-- A list has each micro-op as often as the part of its phase does. -/
theorem count_ofPhase (m : MicroOp) (ms : List MicroOp) : (ofPhase m.phase ms).count m = ms.count m :=
  List.count_filter (decide_eq_true rfl)

/-- The enables of one phase: the high side before the low side. -/
def enablesOf (t : Target) (p : Phase) : List MicroOp :=
  (if (t.get p).high then [.eh p] else []) ++ (if (t.get p).low then [.el p] else [])

theorem mem_disablesOf {t : Target} {p : Phase} {m : MicroOp} :
    m ∈ disablesOf t p ↔ ((t.get p).high = false ∧ m = .dh p) ∨ ((t.get p).low = false ∧ (m = .dl1 p ∨ m = .dl2 p)) := by
  cases hh : (t.get p).high <;> cases hl : (t.get p).low <;> simp [disablesOf, hh, hl]

theorem mem_enablesOf {t : Target} {p : Phase} {m : MicroOp} :
    m ∈ enablesOf t p ↔ ((t.get p).high = true ∧ m = .eh p) ∨ ((t.get p).low = true ∧ m = .el p) := by
  cases hh : (t.get p).high <;> cases hl : (t.get p).low <;> simp [enablesOf, hh, hl]

theorem phase_of_mem_disablesOf {t : Target} {p : Phase} {m : MicroOp} (h : m ∈ disablesOf t p) : m.phase = p := by
  obtain ⟨-, rfl⟩ | ⟨-, rfl | rfl⟩ := mem_disablesOf.mp h <;> rfl

theorem ofPhase_disablesOf (t : Target) (p q : Phase) :
    ofPhase p (disablesOf t q) = if q = p then disablesOf t q else [] := by
  split
  · next h => exact List.filter_eq_self.mpr fun m hm => decide_eq_true ((phase_of_mem_disablesOf hm).trans h)
  · next h => exact List.filter_eq_nil_iff.mpr fun m hm => by rwa [decide_eq_true_iff, phase_of_mem_disablesOf hm]

theorem ofPhase_disables (t : Target) (p : Phase) : ofPhase p (disables t) = disablesOf t p := by
  have hall : disables t = disablesOf t .a ++ (disablesOf t .b ++ (disablesOf t .c ++ [])) := rfl
  rw [hall]
  simp only [ofPhase_append, ofPhase_disablesOf]
  cases p <;> simp [ofPhase]

/-- The enables of one side, one for each phase that meets a test. -/
theorem ofPhase_map_filter (test : Phase → Bool) (k : Phase → MicroOp) (hk : ∀ p, (k p).phase = p) (p : Phase) :
    ofPhase p ((Phase.all.filter test).map k) = if test p then [k p] else [] := by
  have hsingle : Phase.all.filter (fun q => q = p) = [p] := by cases p <;> rfl
  have hfilter : (Phase.all.filter test).filter (fun q => q = p) = if test p then [p] else [] := by
    rw [List.filter_comm, hsingle, List.filter_singleton, Bool.cond_eq_ite]
  rw [ofPhase, List.filter_map]
  simp only [Function.comp_def, hk, hfilter]
  split <;> rfl

theorem ofPhase_enables (t : Target) (p : Phase) : ofPhase p (enables t) = enablesOf t p := by
  rw [enables, ofPhase_append, ofPhase_map_filter _ .eh fun _ => rfl, ofPhase_map_filter _ .el fun _ => rfl]
  rfl

theorem ofPhase_plan (t : Target) (p : Phase) : ofPhase p (plan t) = disablesOf t p ++ enablesOf t p := by
  rw [plan, ofPhase_append, ofPhase_disables, ofPhase_enables]

/-! ### The shape of a plan (41_commutation_engine.md R128) -/

theorem length_disables (t : Target) (ps : List Phase) :
    (ps.flatMap (disablesOf t)).length + ps.countP (fun p => (t.get p).high) + 2 * ps.countP (fun p => (t.get p).low)
      = 3 * ps.length := by
  induction ps with
  | nil => rfl
  | cons p ps ih =>
    simp only [List.flatMap_cons, List.length_append, length_disablesOf, List.countP_cons, List.length_cons]
    split <;> split <;> omega

/-- A plan has nine micro-ops, less one for each low side it enables. -/
theorem length_plan_add (t : Target) : (plan t).length + Phase.all.countP (fun p => (t.get p).low) = 9 := by
  have h := length_disables t Phase.all
  have h3 : Phase.all.length = 3 := rfl
  simp only [plan, disables, enables, List.length_append, List.length_map, ← List.countP_eq_length_filter]
  omega

theorem length_plan_sector (cfg : Config) (x : Sector) : (plan (cfg.target (.sector x))).length = 8 := by
  have h := length_plan_add (cfg.target (.sector x))
  simp only [Config.get_target_sector, Config.phaseTarget, Phase.countP_beq] at h
  omega

theorem length_plan_allOff : (plan Target.allOff).length = 9 := rfl

theorem plan_ne_nil (t : Target) : plan t ≠ [] := by
  have h := length_plan_add t
  have hle : Phase.all.countP (fun p => (t.get p).low) ≤ 3 := List.countP_le_length
  exact List.ne_nil_of_length_pos (by omega)

theorem isEnable_of_mem_disables {t : Target} {m : MicroOp} (h : m ∈ disables t) : m.isEnable = false := by
  obtain ⟨p, -, hm⟩ := List.mem_flatMap.mp h
  obtain ⟨-, rfl⟩ | ⟨-, rfl | rfl⟩ := mem_disablesOf.mp hm <;> rfl

theorem isEnable_of_mem_enables {t : Target} {m : MicroOp} (h : m ∈ enables t) : m.isEnable = true := by
  simp only [enables, List.mem_append, List.mem_map] at h
  obtain ⟨p, -, rfl⟩ | ⟨p, -, rfl⟩ := h <;> rfl

/-- In a plan a phase has `DL1` and `DL2` next to each other, if it has them. -/
theorem dl1_dl2_adjacent_in_plan {t : Target} {p : Phase} (h : (t.get p).low = false) : [.dl1 p, .dl2 p] <:+: plan t := by
  have hphase : [.dl1 p, .dl2 p] <:+: disablesOf t p := by
    rw [disablesOf, h]; exact (List.suffix_append _ _).isInfix
  have hdisables : disablesOf t p <:+: disables t := by
    obtain ⟨ps, qs, hall⟩ := List.append_of_mem p.mem_all
    rw [disables, hall, List.flatMap_append, List.flatMap_cons, ← List.append_assoc]
    exact ⟨_, _, rfl⟩
  have hplan : disables t <:+: plan t := ⟨[], enables t, rfl⟩
  exact (hphase.trans hdisables).trans hplan

/-- How often a plan has each micro-op of a phase. -/
theorem count_plan (t : Target) (p : Phase) :
    (plan t).count (.dh p) = (if (t.get p).high then 0 else 1) ∧ (plan t).count (.eh p) = (if (t.get p).high then 1 else 0)
      ∧ (plan t).count (.dl1 p) = (if (t.get p).low then 0 else 1) ∧ (plan t).count (.dl2 p) = (if (t.get p).low then 0 else 1)
      ∧ (plan t).count (.el p) = (if (t.get p).low then 1 else 0) := by
  have hcount (m : MicroOp) (hm : m.phase = p) : (plan t).count m = (disablesOf t p ++ enablesOf t p).count m := by
    rw [← count_ofPhase, hm, ofPhase_plan]
  rw [hcount _ rfl, hcount _ rfl, hcount _ rfl, hcount _ rfl, hcount _ rfl]
  cases hh : (t.get p).high <;> cases hl : (t.get p).low <;> simp [disablesOf, enablesOf, hh, hl]

/-- Settles O35: a plan is its disables and then its enables; the counts are those of the phase's own part of the plan. -/
theorem plansDisableBeforeTheyEnable : Obligations.PlansDisableBeforeTheyEnable := by
  intro cfg idx hw
  refine ⟨?_, ⟨_, _, rfl, fun m => isEnable_of_mem_disables, fun m => isEnable_of_mem_enables⟩, fun p => ?_⟩
  · cases idx with
    | invalid => exact length_plan_allOff
    | sector x => exact length_plan_sector cfg x
  · obtain ⟨hdh, heh, hdl1, hdl2, hel⟩ := count_plan (cfg.target idx) p
    rw [hdh, heh, hdl1, hdl2, hel]
    refine ⟨by split <;> rfl, by split <;> rfl, rfl, fun h => dl1_dl2_adjacent_in_plan ?_⟩
    simpa using h

/-- Settles O34, by evaluation of the default build's targets and their plans. -/
theorem defaultPlansAreThoseOfTheTable : Obligations.DefaultPlansAreThoseOfTheTable := by
  unfold Obligations.DefaultPlansAreThoseOfTheTable
  decide

end Machine
end Sys2Proof
end

section
/-! PROOFS. What the Commutation Engine's plans do to the outputs (41_commutation_engine.md R135, R136): the phase a plan leaves, a plan
performed twice, and the fields that change from a sector to the next. -/

namespace Sys2Proof.Machine

/-! ### A list of micro-ops, phase by phase -/

/-- Perform micro-ops that all act on one phase. -/
def writeAll (on : Bool) (ms : List MicroOp) (x : PhaseOut) : PhaseOut := ms.foldl (fun x m => m.write on x) x

/-- What becomes of a phase depends only on its own micro-ops. -/
theorem get_performAll (on : Bool) (ms : List MicroOp) (o : Outputs) (p : Phase) :
    (performAll on ms o).get p = writeAll on (ofPhase p ms) (o.get p) := by
  induction ms generalizing o with
  | nil => rfl
  | cons m ms ih =>
    rw [performAll_cons, ih, MicroOp.get_perform, ofPhase, ofPhase, List.filter_cons]
    by_cases h : m.phase = p
    · simp [h, writeAll]
    · simp [h, Ne.symm h]

/-! ### The phase a plan leaves (41_commutation_engine.md R136) -/

/-- The phase a plan leaves, from any one: the high side at the level asked for; the low side PWM's with its pin as it was, or
released at its off level. -/
def reachedPhase (on : Bool) (t : PhaseTarget) (x : PhaseOut) : PhaseOut where
  hsDir := .output
  hsLat := if t.high then on else !on
  lsDir := if t.low then x.lsDir else .output
  lsLat := if t.low then x.lsLat else true
  lsPwm := t.low

/-- A phase after a plan, from any outputs: the disables and the enables of its own target. -/
theorem get_performAll_plan (on : Bool) (t : Target) (o : Outputs) (p : Phase) :
    (performAll on (plan t) o).get p = reachedPhase on (t.get p) (o.get p) := by
  rw [get_performAll, ofPhase_plan]
  cases hh : (t.get p).high <;> cases hl : (t.get p).low <;> simp [disablesOf, enablesOf, writeAll, MicroOp.write, reachedPhase, hh, hl]

/-- What a sector leaves of each phase: the source's high side on, the sink's low side PWM's, every other switch off. -/
theorem reachedPhase_sector {cfg : Config} {x : Sector} {p : Phase} {y : PhaseOut} (hw : cfg.wellFormed = true) :
    reachedPhase cfg.hsOnLevel (cfg.phaseTarget x p) y =
      if p = cfg.src x then
        { hsDir := .output, hsLat := cfg.hsOnLevel, lsDir := .output, lsLat := true, lsPwm := false }
      else if p = cfg.snk x then { y with hsDir := .output, hsLat := !cfg.hsOnLevel, lsPwm := true }
      else PhaseOut.allOff cfg.hsOnLevel := by
  split
  · next hsrc => subst hsrc; simp [reachedPhase, Config.phaseTarget, Config.src_ne_snk hw x]
  · next hsrc =>
    split
    · next hsnk => subst hsnk; simp [reachedPhase, Config.phaseTarget, hsrc]
    · next hsnk => simp [reachedPhase, Config.phaseTarget, PhaseOut.allOff, hsrc, hsnk]

/-- The all-off plan leaves the outputs of a known reset (70_reset_and_hazards.md R180). -/
theorem performAll_plan_allOff (on : Bool) (o : Outputs) :
    performAll on (plan Target.allOff) o = Outputs.uniform (PhaseOut.allOff on) := by
  refine Outputs.ext_get fun p => ?_
  rw [get_performAll_plan, Target.get_allOff, Outputs.get_uniform]
  rfl

/-- No target leaves a high side undetermined. -/
theorem high_reachedPhase (on : Bool) (t : PhaseTarget) (x : PhaseOut) : (reachedPhase on t x).high on = if t.high then .on else .off := by
  cases h : t.high <;> simp [PhaseOut.high, PhaseOut.highMayOn, reachedPhase, h]

/-- No target leaves a low side undetermined. -/
theorem low_reachedPhase (on : Bool) (t : PhaseTarget) (x : PhaseOut) : (reachedPhase on t x).low = if t.low then .enabled else .disabled := by
  cases h : t.low <;> simp [PhaseOut.low, PhaseOut.lowMayOn, reachedPhase, h]

/-! ### The commutation invariant (10_state.md R36) -/

theorem Outputs.every_eq_true_iff {o : Outputs} {test : PhaseOut → Bool} : o.every test = true ↔ ∀ p, test (o.get p) = true := by
  rw [Outputs.every, List.all_eq_true]
  exact ⟨fun h p => h p p.mem_all, fun h p _ => h p⟩

/-- The switches of every phase after the plan of a sector. -/
structure SwitchesOf (on : Bool) (src snk : Phase) (o : Outputs) : Prop where
  high : ∀ p, (o.get p).high on = if p == src then .on else .off
  low : ∀ p, (o.get p).low = if p == snk then .enabled else .disabled

theorem switchesOf_performAll_plan (cfg : Config) (x : Sector) (o : Outputs) :
    SwitchesOf cfg.hsOnLevel (cfg.src x) (cfg.snk x) (performAll cfg.hsOnLevel (plan (cfg.target (.sector x))) o) where
  high p := by rw [get_performAll_plan, Config.get_target_sector, high_reachedPhase]; rfl
  low p := by rw [get_performAll_plan, Config.get_target_sector, low_reachedPhase]; rfl

/-- One high side on, the low side of another phase enabled, and the third phase off: the five items of R36. -/
theorem SwitchesOf.commutationInvariant {on : Bool} {src snk : Phase} {o : Outputs} (h : SwitchesOf on src snk o) (hne : src ≠ snk) :
    o.commutationInvariant on = true := by
  have hon (p : Phase) : ((o.get p).high on == .on) = (p == src) := by rw [h.high]; cases p == src <;> rfl
  have hoff (p : Phase) : ((o.get p).high on == .off) = !(p == src) := by rw [h.high]; cases p == src <;> rfl
  have henabled (p : Phase) : ((o.get p).low == .enabled) = (p == snk) := by rw [h.low]; cases p == snk <;> rfl
  have hdisabled (p : Phase) : ((o.get p).low == .disabled) = !(p == snk) := by rw [h.low]; cases p == snk <;> rfl
  have hdetermined : o.every (fun x => x.high on != .undetermined && x.low != .undetermined) = true :=
    Outputs.every_eq_true_iff.mpr fun p => by rw [h.high, h.low]; cases p == src <;> cases p == snk <;> rfl
  have hapart : o.every (fun x => !(x.high on == .on && x.low == .enabled)) = true :=
    Outputs.every_eq_true_iff.mpr fun p => by
      rw [hon, henabled, Bool.not_eq_true', Bool.and_eq_false_imp, beq_iff_eq]
      rintro rfl
      exact beq_false_of_ne hne
  have hsource : o.count (fun x => x.high on == .on) = 1 := by
    simp only [Outputs.count, hon, Phase.countP_beq]
  have hsink : o.count (fun x => x.low == .enabled) = 1 := by
    simp only [Outputs.count, henabled, Phase.countP_beq]
  have hthird : o.count (fun x => x.fullyOff on) = 1 := by
    simp only [Outputs.count, PhaseOut.fullyOff, hoff, hdisabled, Phase.countP_ne_ne hne]
  rw [Outputs.commutationInvariant, hdetermined, hapart, hsource, hsink, hthird]
  rfl

theorem allOff_performAll_plan_allOff (on : Bool) (o : Outputs) : (performAll on (plan Target.allOff) o).allOff on = true := by
  refine Outputs.every_eq_true_iff.mpr fun p => ?_
  rw [PhaseOut.fullyOff, get_performAll_plan, high_reachedPhase, low_reachedPhase, Target.get_allOff]
  rfl

/-- Settles O38: the switches after a plan are those its target asks for. -/
theorem completedPlansMeetCommutationInvariant : Obligations.CompletedPlansMeetCommutationInvariant := by
  intro cfg o hw
  refine ⟨fun x => ?_, allOff_performAll_plan_allOff cfg.hsOnLevel o⟩
  have h := switchesOf_performAll_plan cfg x o
  refine ⟨h.commutationInvariant (Config.src_ne_snk hw x), ?_, ?_⟩
  · rw [h.high, beq_self_eq_true, if_pos rfl]
  · rw [h.low, beq_self_eq_true, if_pos rfl]

/-! ### A plan performed again (41_commutation_engine.md R135) -/

/-- Micro-ops that would each change nothing change nothing together. -/
theorem performAll_eq_self {on : Bool} {ms : List MicroOp} {o : Outputs} (h : ∀ m ∈ ms, m.perform on o = o) :
    performAll on ms o = o := by
  induction ms with
  | nil => rfl
  | cons m ms ih =>
    obtain ⟨hm, hms⟩ := List.forall_mem_cons.mp h
    rw [performAll_cons, hm, ih hms]

/-- A micro-op that changes nothing in its phase changes nothing. -/
theorem MicroOp.perform_eq_self {on : Bool} {m : MicroOp} {o : Outputs} (h : m.write on (o.get m.phase) = o.get m.phase) :
    m.perform on o = o := by
  refine Outputs.ext_get fun p => ?_
  rw [MicroOp.get_perform]
  split
  · next hp => rw [hp, h]
  · rfl

/-- The phase a target leaves already has what each of its micro-ops writes. -/
theorem write_reachedPhase {on : Bool} {t : Target} {p : Phase} {m : MicroOp} (x : PhaseOut) (h : m ∈ disablesOf t p ++ enablesOf t p) :
    m.write on (reachedPhase on (t.get p) x) = reachedPhase on (t.get p) x := by
  rw [List.mem_append, mem_disablesOf, mem_enablesOf] at h
  obtain (⟨hh, rfl⟩ | ⟨hl, rfl | rfl⟩) | (⟨hh, rfl⟩ | ⟨hl, rfl⟩) := h
  · rw [MicroOp.write, reachedPhase, hh]; rfl
  · rw [MicroOp.write, reachedPhase, hl]; rfl
  · rw [MicroOp.write, reachedPhase, hl]
  · rw [MicroOp.write, reachedPhase, hh]; rfl
  · rw [MicroOp.write, reachedPhase, hl]

theorem perform_performAll_plan {on : Bool} {t : Target} {m : MicroOp} (o : Outputs) (h : m ∈ plan t) :
    m.perform on (performAll on (plan t) o) = performAll on (plan t) o := by
  refine MicroOp.perform_eq_self ?_
  rw [get_performAll_plan]
  exact write_reachedPhase _ (ofPhase_plan t m.phase ▸ mem_ofPhase.mpr ⟨h, rfl⟩)

theorem perform_performAll_primPlan {on : Bool} {k : PrimKind} {p : Phase} {m : MicroOp} (o : Outputs) (h : m ∈ primPlan k p) :
    m.perform on (performAll on (primPlan k p) o) = performAll on (primPlan k p) o := by
  cases k with
  | enableHigh => obtain rfl := List.mem_singleton.mp h; exact MicroOp.perform_perform on _ o
  | disableHigh => obtain rfl := List.mem_singleton.mp h; exact MicroOp.perform_perform on _ o
  | enableLowPwm => obtain rfl := List.mem_singleton.mp h; exact MicroOp.perform_perform on _ o
  | disableLowPwm =>
    have hm : m = .dl1 p ∨ m = .dl2 p := by simpa [primPlan] using h
    rw [performAll_disableLowPwm]
    rcases hm with rfl | rfl <;> exact MicroOp.perform_eq_self (by simp [MicroOp.write, MicroOp.phase])

/-- Settles O40: after a plan each of its micro-ops would change nothing, so the first `k` of them change nothing. -/
theorem repeatedPlanChangesNothing : Obligations.RepeatedPlanChangesNothing := by
  intro on ms o k hms
  refine performAll_eq_self fun m hm => ?_
  have hmem : m ∈ ms := List.mem_of_mem_take hm
  obtain ⟨t, rfl⟩ | ⟨kind, p, rfl⟩ := hms
  · exact perform_performAll_plan o hmem
  · exact perform_performAll_primPlan o hmem

/-! ### Driven outputs (10_state.md R37) -/

/-- The phase a target leaves when its pins are outputs and its low-side latch is at the off level. -/
def drivenPhase (on : Bool) (t : PhaseTarget) : PhaseOut := reachedPhase on t (PhaseOut.allOff on)

theorem reachedPhase_eq_drivenPhase {on : Bool} (t : PhaseTarget) {x : PhaseOut} (hd : x.lsDir = .output) (hl : x.lsLat = true) :
    reachedPhase on t x = drivenPhase on t := by
  rw [drivenPhase, reachedPhase, reachedPhase, hd, hl]; rfl

theorem reachedPhase_drivenPhase (on : Bool) (t u : PhaseTarget) : reachedPhase on t (drivenPhase on u) = drivenPhase on t :=
  reachedPhase_eq_drivenPhase t (ite_self _) (ite_self _)

theorem get_performAll_plan_of_pinsDriven {o : Outputs} (on : Bool) (t : Target) (p : Phase) (h : o.pinsDriven) :
    (performAll on (plan t) o).get p = drivenPhase on (t.get p) := by
  obtain ⟨-, hd, hl⟩ := h p
  rw [get_performAll_plan, reachedPhase_eq_drivenPhase _ hd hl]

/-- Settles O39: from driven outputs the phases after a plan are those of its target, which are evaluated for the default build. -/
theorem defaultFinalPackedStates : Obligations.DefaultFinalPackedStates := by
  intro o h
  simp only [get_performAll_plan_of_pinsDriven _ _ _ h]
  decide

/-! ### From a sector to the next (41_commutation_engine.md R125, R128) -/

/-- The disables leave on what was on and is asked for. -/
theorem writeAll_disablesOf_drivenPhase (on : Bool) (t : Target) (p : Phase) (u : PhaseTarget) :
    writeAll on (disablesOf t p) (drivenPhase on u) = drivenPhase on ⟨u.high && (t.get p).high, u.low && (t.get p).low⟩ := by
  cases hh : (t.get p).high <;> cases hl : (t.get p).low <;>
    simp [disablesOf, writeAll, MicroOp.write, drivenPhase, reachedPhase, PhaseOut.allOff, hh, hl]

/-- Two driven phases differ in at most two fields, one of the high side and one of the low side. -/
theorem fieldsChanged_drivenPhase (on : Bool) (t u : PhaseTarget) :
    (drivenPhase on t).fieldsChanged (drivenPhase on u) = (t.high != u.high).toNat + (t.low != u.low).toNat := by
  obtain ⟨th, tl⟩ := t; obtain ⟨uh, ul⟩ := u
  revert on th tl uh ul; decide

/-- A count is a sum of zeros and ones. -/
theorem countP_eq_sum_toNat {α : Type} (test : α → Bool) (l : List α) : l.countP test = (l.map fun a => (test a).toNat).sum := by
  induction l with
  | nil => rfl
  | cons a l ih => rw [List.countP_cons, List.map_cons, List.sum_cons, ih, Nat.add_comm]; cases test a <;> rfl

theorem Outputs.fieldsChanged_of_drivenPhase {on : Bool} {o o' : Outputs} {f f' : Phase → PhaseTarget}
    (h : ∀ p, o.get p = drivenPhase on (f p)) (h' : ∀ p, o'.get p = drivenPhase on (f' p)) :
    o.fieldsChanged o' = Phase.all.countP (fun p => (f p).high != (f' p).high) + Phase.all.countP (fun p => (f p).low != (f' p).low) := by
  simp only [Outputs.fieldsChanged, h, h', fieldsChanged_drivenPhase, countP_eq_sum_toNat, List.sum_map_add]

theorem countP_beq_ne_and (p q : Phase) :
    Phase.all.countP (fun r => (r == p) != ((r == p) && (r == q))) = if p = q then 0 else 1 := by
  cases p <;> cases q <;> rfl

theorem countP_beq_ne (p q : Phase) : Phase.all.countP (fun r => (r == p) != (r == q)) = if p = q then 0 else 2 := by
  cases p <;> cases q <;> rfl

/-- When exactly one of two things moves, the moves cost what one costs. -/
theorem add_cost_of_one_move {p p' q q' : Phase} (n : Nat) (h : ((p == p') != (q == q')) = true) :
    (if p = p' then 0 else n) + (if q = q' then 0 else n) = n := by
  by_cases hp : p = p' <;> by_cases hq : q = q' <;> simp [hp, hq] at h ⊢

/-- Settles O41: the disables turn off the end of the current path that moves, and the enables turn it on where it moves to. -/
theorem adjacentSectorChangesTwoFields : Obligations.AdjacentSectorChangesTwoFields := by
  intro cfg x o hw ho before
  have hmove := Config.one_end_moves hw x
  have hbefore (p : Phase) : before.get p = drivenPhase cfg.hsOnLevel (cfg.phaseTarget x p) := by
    rw [get_performAll_plan_of_pinsDriven _ _ _ ho, Config.get_target_sector]
  have hdisabled (p : Phase) : (performAll cfg.hsOnLevel (disables (cfg.target (.sector x.next))) before).get p
      = drivenPhase cfg.hsOnLevel ⟨(p == cfg.src x) && (p == cfg.src x.next), (p == cfg.snk x) && (p == cfg.snk x.next)⟩ := by
    rw [get_performAll, ofPhase_disables, hbefore, writeAll_disablesOf_drivenPhase, Config.get_target_sector]; rfl
  have hafter (p : Phase) : (performAll cfg.hsOnLevel (plan (cfg.target (.sector x.next))) before).get p
      = drivenPhase cfg.hsOnLevel (cfg.phaseTarget x.next p) := by
    rw [get_performAll_plan, hbefore, Config.get_target_sector, reachedPhase_drivenPhase]
  rw [Outputs.fieldsChanged_of_drivenPhase hbefore hdisabled, Outputs.fieldsChanged_of_drivenPhase hbefore hafter]
  simp only [Config.phaseTarget, countP_beq_ne_and, countP_beq_ne]
  exact ⟨add_cost_of_one_move 1 hmove, add_cost_of_one_move 2 hmove⟩

end Sys2Proof.Machine
end

section
/-! PROOFS. The Commutation Engine's commands (41_commutation_engine.md R130 to R134): acceptance and its frame, the HOST's and the
SEQ's step, a command from its presentation to its end, and the end of every command. -/

namespace Sys2Proof.Machine

/-! ### Acceptance (41_commutation_engine.md R131) -/

theorem planOf_ne_nil (s : State) (i : Instr) : s.planOf i ≠ [] := by
  cases i with
  | commutate | allOff | activateSector x => exact plan_ne_nil _
  | enableHigh p | disableHigh p | enableLowPwm p | disableLowPwm p => exact List.cons_ne_nil _ _

/-- Settles O12: a command raises the mark or writes the sequencer, and the plan it latches is its own. -/
theorem commandsWriteOnlyTheSequencer : Obligations.CommandsWriteOnlyTheSequencer := by
  intro i s t h
  obtain ⟨-, ⟨hb, rfl⟩ | ⟨hb, ms, rfl⟩⟩ := exec_cases h
  · exact ⟨rfl, rfl, rfl, rfl, rfl, fun hidle => absurd (hidle.symm.trans hb) Bool.false_ne_true, fun _ => ⟨rfl, rfl, rfl, rfl⟩⟩
  · have hplan : ms = s.planOf i := exec_seqPlan hb h
    exact ⟨rfl, rfl, rfl, rfl, rfl, fun _ => ⟨rfl, rfl, rfl, hplan ▸ planOf_ne_nil s i⟩,
      fun hbusy => absurd (hb.symm.trans hbusy) Bool.false_ne_true⟩

/-- The sample's bits at the Hall positions are those of the input register (41_commutation_engine.md R120, 20_memory.md R52). -/
theorem hallCode_inRead {s : State} (hw : s.cfg.wellFormed = true) :
    s.cfg.hallCode s.inRead = BitVec.ofBool (s.hallIn.testBit s.cfg.hallPosC) ++ BitVec.ofBool (s.hallIn.testBit s.cfg.hallPosB)
      ++ BitVec.ofBool (s.hallIn.testBit s.cfg.hallPosA) := by
  obtain ⟨-, hrange, -⟩ := Config.wellFormed_parts hw
  obtain ⟨⟨ha, hb⟩, hc⟩ : (s.cfg.hallPosA < s.cfg.wIn ∧ s.cfg.hallPosB < s.cfg.wIn) ∧ s.cfg.hallPosC < s.cfg.wIn := by
    simpa [Config.positionsInRange] using hrange
  simp only [Config.hallCode, State.inRead, BitVec.getLsbD_ofNat, ha, hb, hc, decide_true, Bool.true_and]

/-- Settles O10: in an idle block a command latches its plan; COMMUTATE's is that of the ROM's entry at the sample's code. -/
theorem engineCommandsLatchTheirPlan : Obligations.EngineCommandsLatchTheirPlan := by
  intro s x hw hb
  refine ⟨exec_of_idle (.activateSector x) hw hb, exec_of_idle .allOff hw hb, s.sampledSector, ?_, exec_of_idle .commutate hw hb⟩
  rw [State.sampledSector, Config.bits_sectorOf hw, hallCode_inRead hw]

/-! ### One step (41_commutation_engine.md R130, R131) -/

/-- Settles O13: the word presented is decoded and its command run, in the state after the HOST's turn was taken. -/
theorem stepRunsTheDecodedCommand : Obligations.StepRunsTheDecodedCommand := by
  refine ⟨fun s w rest i hw hb ht hd => ?_, fun s i hw hb => ?_⟩
  · rw [step_of_turns hw ht]
    exact issue_of_ok hb hd
  · rw [step_withFetchWord 8 _ hw, wordOfNat_toNat]
    exact issue_of_ok hb (decode_encode i)

/-- Settles O14: the issue checks BUSY before it decodes. -/
theorem busyBlockRefusesEveryWord : Obligations.BusyBlockRefusesEveryWord := by
  intro s w rest hw hb ht
  rw [step_of_turns hw ht]
  exact issue_of_busy w hb

/-- Settles O16, by the rule of the SEQ's step. -/
theorem seqStepPerformsTheNextMicroOp : Obligations.SeqStepPerformsTheNextMicroOp :=
  fun _ _ hw hu hm => step_of_nextMicroOp hw hu hm

theorem step_seq_of_idle {s : State} (hw : s.cfg.wellFormed = true) (hu : s.nextTurn = .seq) (hb : s.busy = false) :
    step s = .next s.nextInstant := by
  rw [step_of_wellFormed hw, hu, takeTurn, seqTurn_of_idle (s := s.nextInstant) hb]

/-- Settles O17: the SEQ's turn finds no micro-op. -/
theorem idleBlockHoldsItsState : Obligations.IdleBlockHoldsItsState := fun _ hw hu hb => step_seq_of_idle hw hu hb

/-! ### A command from its presentation to its end (41_commutation_engine.md R132 to R134) -/

theorem State.length_pending (s : State) : s.pending.length = s.seqPlan.length - s.seqStep := List.length_drop

theorem State.busy_afterMicroOps_iff (s : State) (k : Nat) : (s.afterMicroOps k).busy = true ↔ k < s.pending.length := by
  rw [State.busy_iff, State.length_pending]
  exact Nat.lt_sub_iff_add_lt'.symm

/-- A command presented to an idle block, and the first `k` micro-ops of its plan, when no other agent acts. -/
theorem run_command_first_microOps {s : State} {i : Instr} {k : Nat} (hw : s.cfg.wellFormed = true) (hb : s.busy = false) (ht : s.turns = [])
    (hk : k ≤ (s.planOf i).length) :
    core.run (k + 1) (s.withFetchWord 8 (encode i).toNat) = .next ((s.afterAcceptance i).afterMicroOps k) := by
  rw [run_succ_of_next _ (step_withFetchWord_encode i hw hb)]
  exact pendingPlanRunsInListOrder (s.afterAcceptance i) k hw ht hk

/-- A command whose plan has `n + 1` micro-ops leaves the block busy until the last of them. -/
theorem run_command_busy_until_end {s : State} {i : Instr} {n : Nat} (hw : s.cfg.wellFormed = true) (hb : s.busy = false)
    (ht : s.turns = []) (hlen : (s.planOf i).length = n + 1) :
    ∃ u t : State, core.run (n + 1) (s.withFetchWord 8 (encode i).toNat) = .next u ∧ u.busy = true
      ∧ core.run (n + 2) (s.withFetchWord 8 (encode i).toNat) = .next t ∧ t.busy = false
      ∧ t.out = performAll s.cfg.hsOnLevel (s.planOf i) s.out ∧ t.refused = s.refused ∧ t.hallIn = s.hallIn ∧ t.cfg = s.cfg := by
  have hlt : n < (s.planOf i).length := hlen ▸ Nat.lt_succ_self n
  obtain ⟨t, hrun, hend⟩ := run_command i hw hb ht
  rw [hlen] at hrun
  exact ⟨_, t, run_command_first_microOps hw hb ht hlt.le, (State.busy_afterMicroOps_iff _ n).mpr hlt, hrun, hend⟩

/-- COMMUTATE's plan is that of the sector of its sample (41_commutation_engine.md R134). -/
theorem planOf_commutate {s : State} {idx : SectorIndex} (h : s.sampledSector = idx) : s.planOf .commutate = plan (s.cfg.target idx) := by
  subst h; rfl

theorem planOf_of_sector {s : State} {i : Instr} {x : Sector}
    (h : i = .activateSector x ∨ (i = .commutate ∧ s.sampledSector = .sector x)) : s.planOf i = plan (s.cfg.target (.sector x)) := by
  obtain rfl | ⟨rfl, hx⟩ := h
  · rfl
  · exact planOf_commutate hx

theorem planOf_of_allOff {s : State} {i : Instr} (h : i = .allOff ∨ (i = .commutate ∧ s.sampledSector = .invalid)) :
    s.planOf i = plan Target.allOff := by
  obtain rfl | ⟨rfl, hx⟩ := h
  · rfl
  · exact planOf_commutate hx

/-- Settles O37: the plan of a sector has eight micro-ops and that of all-off nine, and from any outputs they leave the phases their
targets ask for. -/
theorem engineCommandsReachTheirTarget : Obligations.EngineCommandsReachTheirTarget := by
  intro s hw hb ht
  refine ⟨fun i x hi => ?_, fun i hi => ?_⟩
  · have hplan := planOf_of_sector hi
    obtain ⟨u, t, hu, hbusy, hrun, hidle, hout, hrefused, hhall, hcfg⟩ :=
      run_command_busy_until_end hw hb ht ((congrArg _ hplan).trans (length_plan_sector s.cfg x))
    refine ⟨u, t, hu, hbusy, hrun, hidle, hrefused, hhall, hcfg, fun p => ?_⟩
    rw [hout, hplan, get_performAll_plan, Config.get_target_sector]
    exact reachedPhase_sector hw
  · have hplan := planOf_of_allOff hi
    obtain ⟨u, t, hu, hbusy, hrun, hidle, hout, hrefused, hhall, hcfg⟩ :=
      run_command_busy_until_end hw hb ht ((congrArg _ hplan).trans length_plan_allOff)
    refine ⟨u, t, hu, hbusy, hrun, hidle, hrefused, hhall, hcfg, ?_⟩
    rw [hout, hplan, performAll_plan_allOff]

/-! ### Every command ends (60_exceptions.md R173, 70_reset_and_hazards.md R192) -/

/-- A step in a well-formed build answers a next state, with one pending turn less. -/
theorem exists_step {s : State} (hw : s.cfg.wellFormed = true) : ∃ t, step s = .next t ∧ t.turns = s.turns.tail := by
  obtain ⟨t, -, ht, -⟩ := step_sameButOutputs s.out hw
  obtain ⟨-, htake⟩ := step_takes_turn ht
  obtain ⟨-, hturns, -⟩ := takeTurn_keeps htake
  exact ⟨t, ht, hturns⟩

/-- The pending turns are taken one a step. -/
theorem run_pending_turns {s : State} (h : s.Inv) : ∃ t : State, core.run s.turns.length s = .next t ∧ t.Inv ∧ t.turns = [] := by
  generalize hts : s.turns = ts
  induction ts generalizing s with
  | nil => exact ⟨s, rfl, h, hts⟩
  | cons u ts ih =>
    obtain ⟨t, hstep, hturns⟩ := exists_step h.config
    obtain ⟨v, hv⟩ := ih (everyStepKeepsTheMachineInvariant s t h hstep) (by rw [hturns, hts]; rfl)
    exact ⟨v, by rw [List.length_cons, run_succ_of_next _ hstep]; exact hv.1, hv.2⟩

/-- With no turn pending a step is the SEQ's, and takes the first of the pending micro-ops, if there is one. -/
theorem exists_step_pending_tail {s : State} (hw : s.cfg.wellFormed = true) (ht : s.turns = []) :
    ∃ t, step s = .next t ∧ t.cfg = s.cfg ∧ t.turns = [] ∧ t.pending = s.pending.tail := by
  have hu : s.nextTurn = .seq := by rw [State.nextTurn, ht]
  have htail : s.turns.tail = [] := by rw [ht, List.tail_nil]
  cases hb : s.busy with
  | false =>
    have hnone : s.pending = [] := List.drop_eq_nil_of_le (s.not_busy_iff.mp hb)
    refine ⟨_, step_seq_of_idle hw hu hb, rfl, htail, ?_⟩
    rw [hnone, List.tail_nil]; exact hnone
  | true =>
    obtain ⟨m, hm⟩ := exists_nextMicroOp hb
    exact ⟨_, step_of_nextMicroOp hw hu hm, rfl, htail, List.tail_drop.symm⟩

/-- With no turn pending, as many steps as micro-ops are left, or more, leave the block idle. -/
theorem run_to_idle {s : State} {k : Nat} (hw : s.cfg.wellFormed = true) (ht : s.turns = []) (hk : s.pending.length ≤ k) :
    ∃ t : State, core.run k s = .next t ∧ t.busy = false ∧ t.turns = [] := by
  induction k generalizing s with
  | zero =>
    rw [State.length_pending] at hk
    exact ⟨s, rfl, s.not_busy_iff.mpr (Nat.le_of_sub_eq_zero (Nat.le_zero.mp hk)), ht⟩
  | succ k ih =>
    obtain ⟨t, hstep, hcfg, hturns, hpending⟩ := exists_step_pending_tail hw ht
    rw [run_succ_of_next k hstep]
    refine ih (hcfg ▸ hw) hturns ?_
    rw [hpending, List.length_tail]
    exact Nat.sub_le_of_le_add hk

/-- Settles O52: the pending turns are taken and leave a state that meets the invariant, whose plan has at most nine micro-ops left. -/
theorem everyCommandEnds : Obligations.EveryCommandEnds := by
  intro s h
  obtain ⟨t, hrun, hinv, hturns⟩ := run_pending_turns h
  rw [run_add_of_next _ 9 hrun]
  refine run_to_idle hinv.config hturns ?_
  rw [State.length_pending]
  exact (Nat.sub_le _ _).trans hinv.planShort

end Sys2Proof.Machine
end

section
/-! PROOFS. Exceptions and refusals (60_exceptions.md): no step stops a well-formed build, a foreign writer is refused, and an invalid
Hall code runs the all-off plan. -/

namespace Sys2Proof.Machine

/-- Settles O20: a step answers a next state, and the turn it takes, in the state of the new instant, writes no parameter, no pending
turn and no instant. -/
theorem everyStepOfWellFormedBuildCompletes : Obligations.EveryStepOfWellFormedBuildCompletes := by
  intro s hw
  obtain ⟨t, hstep, -⟩ := exists_step hw
  obtain ⟨-, htake⟩ := step_takes_turn hstep
  exact ⟨t, hstep, takeTurn_keeps htake⟩

/-- Settles O19: the foreign writer's turn is a refusal and nothing else. -/
theorem foreignWriterIsRefused : Obligations.ForeignWriterIsRefused :=
  fun _ _ _ _ hw ht => step_of_turns hw ht

/-- The plan of an invalid Hall code is that of the all-off target (41_commutation_engine.md R127, R134). -/
theorem planOf_commutate_of_invalid_code {s : State} (hw : s.cfg.wellFormed = true)
    (hcode : s.cfg.hallCode s.inRead = 0b000 ∨ s.cfg.hallCode s.inRead = 0b111) : s.planOf .commutate = plan Target.allOff :=
  planOf_commutate ((Config.sectorOf_eq_invalid_iff hw).mpr hcode)

/-- The plan of the all-off target, written out (41_commutation_engine.md R129). -/
theorem plan_allOff : plan Target.allOff = [.dh .a, .dl1 .a, .dl2 .a, .dh .b, .dl1 .b, .dl2 .b, .dh .c, .dl1 .c, .dl2 .c] := rfl

/-- Settles O11: COMMUTATE latches its plan as for any code, here the all-off plan, and a command's plan is performed to its end. -/
theorem invalidHallCodeRunsAllOffPlan : Obligations.InvalidHallCodeRunsAllOffPlan := by
  intro s hw hb hcode
  have hplan := (planOf_commutate_of_invalid_code hw hcode).trans plan_allOff
  rw [← hplan]
  refine ⟨exec_of_idle .commutate hw hb, fun ht => ?_⟩
  obtain ⟨t, hrun, hidle, hout, hrefused, -, -⟩ := run_command .commutate hw hb ht
  rw [hplan] at hrun
  exact ⟨t, hrun, hidle, hrefused, hout⟩

end Sys2Proof.Machine
end

section
/-! PROOFS. Reset and hazards (70_reset_and_hazards.md): a reset during a run and the start of one, `SAFE` as a property of the set of
switches that may conduct, the plans that keep it, and the safety of whole runs. -/

namespace Sys2Proof

/-- At most one phase meets a test that counts at most one. -/
theorem Phase.eq_of_countP_le_one {test : Phase → Bool} {p q : Phase} (h : Phase.all.countP test ≤ 1) (hp : test p = true)
    (hq : test q = true) : p = q := by
  by_contra hne
  have hsub : [p, q].Subperm Phase.all := List.subperm_of_subset (by simpa using hne) fun r _ => r.mem_all
  have htwo : [p, q].countP test = 2 := by simp [hp, hq]
  have hle := hsub.countP_le test
  omega

namespace Machine

/-! ### `SAFE` as a property of the switches that may conduct (70_reset_and_hazards.md R183) -/

/-- A set of high sides and a set of low sides that meet the three clauses of R183. -/
structure SafeSwitches (high low : Phase → Bool) : Prop where
  apart : ∀ p, high p = true → low p = false
  oneHigh : Phase.all.countP high ≤ 1
  oneLow : Phase.all.countP low ≤ 1

theorem Outputs.safe_iff {on : Bool} {o : Outputs} :
    o.safe on = true ↔ SafeSwitches (fun p => (o.get p).highMayOn on) (fun p => (o.get p).lowMayOn) := by
  simp only [safe, Bool.and_eq_true, every_eq_true_iff, Bool.not_eq_true', Bool.and_eq_false_imp, decide_eq_true_iff]
  exact ⟨fun ⟨⟨apart, oneHigh⟩, oneLow⟩ => ⟨apart, oneHigh, oneLow⟩, fun h => ⟨⟨h.apart, h.oneHigh⟩, h.oneLow⟩⟩

/-- Fewer switches are no less safe. -/
theorem SafeSwitches.mono {high low high' low' : Phase → Bool} (h : SafeSwitches high low)
    (hhigh : ∀ p, high' p = true → high p = true) (hlow : ∀ p, low' p = true → low p = true) : SafeSwitches high' low' where
  apart p hp := Bool.eq_false_of_not_eq_true fun hl =>
    Bool.false_ne_true ((h.apart p (hhigh p hp)).symm.trans (hlow p hl))
  oneHigh := (List.countP_mono_left fun p _ => hhigh p).trans h.oneHigh
  oneLow := (List.countP_mono_left fun p _ => hlow p).trans h.oneLow

theorem safeSwitches_none : SafeSwitches (fun _ => false) (fun _ => false) := ⟨fun _ _ => rfl, by decide, by decide⟩

/-- What a target asks for is safe: source and sink differ (41_commutation_engine.md R125). -/
theorem safeSwitches_target {cfg : Config} (idx : SectorIndex) (hw : cfg.wellFormed = true) :
    SafeSwitches (fun p => ((cfg.target idx).get p).high) (fun p => ((cfg.target idx).get p).low) := by
  cases idx with
  | invalid =>
    simp only [Config.target, Target.get_allOff]
    exact safeSwitches_none
  | sector x =>
    simp only [Config.get_target_sector, Config.phaseTarget]
    refine ⟨fun p hp => ?_, (Phase.countP_beq _).le, (Phase.countP_beq _).le⟩
    rw [beq_iff_eq.mp hp]
    exact beq_false_of_ne (Config.src_ne_snk hw x)

/-- Safe outputs have no two low sides that may conduct. -/
theorem Outputs.not_two_lowMayOn {on : Bool} {o : Outputs} {p q : Phase} (h : o.safe on = true) (hne : p ≠ q) :
    ¬ ((o.get p).lowMayOn = true ∧ (o.get q).lowMayOn = true) :=
  fun ⟨hp, hq⟩ => hne (Phase.eq_of_countP_le_one (Outputs.safe_iff.mp h).oneLow hp hq)

/-! ### The disables of a plan (70_reset_and_hazards.md R184, items 1 and 2) -/

namespace Outputs.addsNoSwitch

variable {on : Bool} {o o' o'' : Outputs}

theorem refl (on : Bool) (o : Outputs) : o.addsNoSwitch on o := fun _ => ⟨id, id⟩

theorem trans (h : o.addsNoSwitch on o') (h' : o'.addsNoSwitch on o'') : o.addsNoSwitch on o'' :=
  fun p => ⟨(h p).1 ∘ (h' p).1, (h p).2 ∘ (h' p).2⟩

theorem safe (h : o.addsNoSwitch on o') (hs : o.safe on = true) : o'.safe on = true :=
  safe_iff.mpr ((safe_iff.mp hs).mono (fun p => (h p).1) fun p => (h p).2)

end Outputs.addsNoSwitch

/-- `DH` turns a high side off; `DL1` leaves only a connected low side on; `DL2` takes PWM's hold away and writes nothing else. -/
theorem MicroOp.mayOn_of_write_disable {on : Bool} {m : MicroOp} (x : PhaseOut) (hm : m.isEnable = false) :
    ((m.write on x).highMayOn on = true → x.highMayOn on = true) ∧ ((m.write on x).lowMayOn = true → x.lowMayOn = true) := by
  cases m with
  | eh p => cases hm
  | el p => cases hm
  | dh p => exact ⟨by simp [write, PhaseOut.highMayOn], id⟩
  | dl1 p => exact ⟨id, by simp +contextual [write, PhaseOut.lowMayOn]⟩
  | dl2 p => exact ⟨id, by simp +contextual [write, PhaseOut.lowMayOn, or_assoc]⟩

theorem MicroOp.addsNoSwitch_perform {on : Bool} {m : MicroOp} (o : Outputs) (hm : m.isEnable = false) :
    o.addsNoSwitch on (m.perform on o) := by
  intro p
  rw [get_perform]
  split
  · exact mayOn_of_write_disable (o.get p) hm
  · exact ⟨id, id⟩

theorem addsNoSwitch_performAll {on : Bool} {ms : List MicroOp} (o : Outputs) (h : ∀ m ∈ ms, m.isEnable = false) :
    o.addsNoSwitch on (performAll on ms o) := by
  induction ms generalizing o with
  | nil => exact .refl on o
  | cons m ms ih =>
    obtain ⟨hm, hms⟩ := List.forall_mem_cons.mp h
    rw [performAll_cons]
    exact (m.addsNoSwitch_perform o hm).trans (ih _ hms)

theorem addsNoSwitch_take_disables (on : Bool) (t : Target) (k : Nat) (o : Outputs) :
    o.addsNoSwitch on (performAll on ((disables t).take k) o) :=
  addsNoSwitch_performAll o fun _ hm => isEnable_of_mem_disables (List.mem_of_mem_take hm)

/-- Only switches a target asks for may conduct. -/
def Outputs.onlyTarget (on : Bool) (t : Target) (o : Outputs) : Prop :=
  ∀ p, ((o.get p).highMayOn on = true → (t.get p).high = true) ∧ ((o.get p).lowMayOn = true → (t.get p).low = true)

/-- The disables turn off whatever the target does not ask for. -/
theorem onlyTarget_performAll_disables (on : Bool) (t : Target) (o : Outputs) : (performAll on (disables t) o).onlyTarget on t := by
  intro p
  rw [get_performAll, ofPhase_disables]
  cases hh : (t.get p).high <;> cases hl : (t.get p).low <;>
    simp [disablesOf, writeAll, MicroOp.write, PhaseOut.highMayOn, PhaseOut.lowMayOn, hh, hl]

/-- Settles O43: each disable adds no switch, and those of a phase turn off what its target does not ask for. -/
theorem disablesAddNoConductingSwitch : Obligations.DisablesAddNoConductingSwitch :=
  fun cfg idx o _ => ⟨fun k => addsNoSwitch_take_disables _ _ k o, onlyTarget_performAll_disables _ (cfg.target idx) o⟩

/-! ### The engine's plans (70_reset_and_hazards.md R184, item 3, (a) and (b)) -/

theorem mem_enables {t : Target} {m : MicroOp} (h : m ∈ enables t) :
    (∃ p, (t.get p).high = true ∧ m = .eh p) ∨ ∃ p, (t.get p).low = true ∧ m = .el p := by
  have hm : m ∈ enablesOf t m.phase := ofPhase_enables t m.phase ▸ mem_ofPhase.mpr ⟨h, rfl⟩
  exact (mem_enablesOf.mp hm).imp (fun h => ⟨_, h⟩) fun h => ⟨_, h⟩

/-- An enable turns on only the switch it is there for. -/
theorem Outputs.onlyTarget.perform_enable {on : Bool} {t : Target} {o : Outputs} {m : MicroOp} (h : o.onlyTarget on t)
    (hm : m ∈ enables t) : (m.perform on o).onlyTarget on t := by
  intro p
  rw [MicroOp.get_perform]
  split
  · next hp =>
    subst hp
    obtain ⟨p, hhigh, rfl⟩ | ⟨p, hlow, rfl⟩ := mem_enables hm
    · exact ⟨fun _ => hhigh, (h p).2⟩
    · exact ⟨(h p).1, fun _ => hlow⟩
  · exact h p

theorem Outputs.onlyTarget.performAll_enables {on : Bool} {t : Target} {o : Outputs} {ms : List MicroOp} (h : o.onlyTarget on t)
    (hms : ∀ m ∈ ms, m ∈ enables t) : (performAll on ms o).onlyTarget on t := by
  induction ms generalizing o with
  | nil => exact h
  | cons m ms ih =>
    obtain ⟨hm, hms⟩ := List.forall_mem_cons.mp hms
    exact ih (h.perform_enable hm) hms

/-- From the end of the disables on only what the target asks for may conduct. -/
theorem onlyTarget_performAll_take_plan {on : Bool} {t : Target} {k : Nat} (o : Outputs) (hk : (disables t).length ≤ k) :
    (performAll on ((plan t).take k) o).onlyTarget on t := by
  rw [plan, List.take_append, List.take_of_length_le hk, performAll_append]
  exact (onlyTarget_performAll_disables on t o).performAll_enables fun _ => List.mem_of_mem_take

/-- Settles O44: before the end of the disables no switch was added to safe outputs; from then on only the target's switches may
conduct. -/
theorem enginePlansKeepSafe : Obligations.EnginePlansKeepSafe := by
  intro cfg idx o k hw h
  by_cases hk : (disables (cfg.target idx)).length ≤ k
  · have honly := onlyTarget_performAll_take_plan (on := cfg.hsOnLevel) o hk
    exact Outputs.safe_iff.mpr ((safeSwitches_target idx hw).mono (fun p => (honly p).1) fun p => (honly p).2)
  · have hsafe : o.safe cfg.hsOnLevel = true := h.resolve_right hk
    rw [plan, List.take_append_of_le_length (Nat.le_of_not_le hk)]
    exact (addsNoSwitch_take_disables _ _ k o).safe hsafe

/-- From any outputs, a whole plan ends in safe ones (70_reset_and_hazards.md R184 (b)). -/
theorem safe_performAll_plan {cfg : Config} (idx : SectorIndex) (o : Outputs) (hw : cfg.wellFormed = true) :
    (performAll cfg.hsOnLevel (plan (cfg.target idx)) o).safe cfg.hsOnLevel = true := by
  have hle : (disables (cfg.target idx)).length ≤ (plan (cfg.target idx)).length := by
    rw [plan, List.length_append]; exact Nat.le_add_right _ _
  have hsafe := enginePlansKeepSafe cfg idx o _ hw (.inr hle)
  rwa [List.take_length] at hsafe

theorem wellFormed_default : Config.default.wellFormed = true := by decide

/-- Settles O45: the two indexes by evaluation; the outputs sector 3 leaves are safe, and sector 4's plan keeps them so. -/
theorem sectorThreeToFourReleasesBeforeItConnects : Obligations.SectorThreeToFourReleasesBeforeItConnects := by
  refine ⟨by decide, by decide, fun k => Outputs.not_two_lowMayOn (on := true) ?_ (by decide)⟩
  have hthree := safe_performAll_plan (.sector .s3) State.reset.out wellFormed_default
  exact enginePlansKeepSafe Config.default (.sector .s4) _ k wellFormed_default (.inl hthree)

/-- Settles O46, by evaluation of the four sequences in the default build. -/
theorem reorderedPlansBreakSafe : Obligations.ReorderedPlansBreakSafe := by
  unfold Obligations.ReorderedPlansBreakSafe
  decide

/-! ### Reset during a run, and the start of a run (70_reset_and_hazards.md R180) -/

/-- Settles O8: the turn is taken at its place in the list; the outputs are those of a reset, and nothing but the outputs and the
sequencer is written. -/
theorem resetAbandonsThePlanAndKeepsTheMark : Obligations.ResetAbandonsThePlanAndKeepsTheMark := by
  intro s rest hw ht
  refine ⟨_, step_of_turns hw ht, rfl, rfl, rfl, rfl, rfl, rfl, rfl, rfl, fun hk p => ?_⟩
  exact Outputs.get_afterReset_of_known (s.instant + 1) p hk

/-- Reset with known outputs leaves no switch that may conduct. -/
theorem Outputs.safe_afterReset {cfg : Config} (instant : Nat) (hk : cfg.resetOutputsKnown = true) :
    (Outputs.afterReset cfg instant).safe cfg.hsOnLevel = true := by
  refine safe_iff.mpr ?_
  have hhigh : (PhaseOut.allOff cfg.hsOnLevel).highMayOn cfg.hsOnLevel = false :=
    (PhaseOut.highMayOn_eq_false_iff _ _).mpr ⟨rfl, rfl⟩
  have hlow : (PhaseOut.allOff cfg.hsOnLevel).lowMayOn = false := (PhaseOut.lowMayOn_eq_false_iff _).mpr ⟨rfl, rfl, rfl⟩
  simp only [get_afterReset_of_known instant _ hk, hhigh, hlow]
  exact safeSwitches_none

/-- With no plan in progress only the outputs of the moment count. -/
theorem State.staysSafe_of_no_plan {s : State} (hplan : s.seqPlan = []) (hs : s.out.safe s.cfg.hsOnLevel = true) : s.staysSafe := by
  intro k
  rw [State.pending, hplan, List.drop_nil, List.take_nil]
  exact hs

theorem State.Inv.initial {cfg : Config} (hw : cfg.wellFormed = true) : (State.initial cfg).Inv :=
  ⟨hw, Nat.zero_le 9, Nat.le_refl 0, Nat.two_pow_pos cfg.wIn⟩

theorem State.staysSafe_initial {cfg : Config} (hk : cfg.resetOutputsKnown = true) : (State.initial cfg).staysSafe :=
  staysSafe_of_no_plan rfl (Outputs.safe_afterReset 0 hk)

theorem start_cases {cfg : Config} {s : State} (h : start cfg = .next s) : cfg.wellFormed = true ∧ s = State.initial cfg := by
  cases hw : cfg.wellFormed with
  | false => rw [start_of_badConfig hw] at h; cases h
  | true => rw [start_of_wellFormed hw] at h; cases h; exact ⟨rfl, rfl⟩

/-- Settles O51: each invariant holds of the initial state of a build. -/
theorem invariantsHoldWhereARunStarts : Obligations.InvariantsHoldWhereARunStarts := by
  refine ⟨.initial wellFormed_default, Outputs.pinsDriven_afterReset 0 rfl, State.staysSafe_initial rfl, fun cfg s h => ?_⟩
  obtain ⟨hw, rfl⟩ := start_cases h
  exact ⟨.initial hw, fun hk => ⟨Outputs.pinsDriven_afterReset 0 hk, State.staysSafe_initial hk⟩⟩

/-! ### The safety of whole runs (70_reset_and_hazards.md R184, R191) -/

namespace State.staysSafe

variable {s : State}

theorem out_safe (h : s.staysSafe) : s.out.safe s.cfg.hsOnLevel = true := h 0

/-- The SEQ's step leaves the rest of the plan, which the invariant spoke of already. -/
theorem nextMicroOp {m : MicroOp} (h : s.staysSafe) (hm : s.seqPlan[s.seqStep]? = some m) :
    ((s.withOut (m.perform s.cfg.hsOnLevel s.out)).withSeq s.seqPlan (s.seqStep + 1)).staysSafe := by
  intro k
  have hpending : s.pending = m :: s.seqPlan.drop (s.seqStep + 1) := by
    obtain ⟨hlt, rfl⟩ := List.getElem?_eq_some_iff.mp hm
    exact List.drop_eq_getElem_cons hlt
  have hk := h (k + 1)
  rw [hpending] at hk
  exact hk

/-- An engine's plan, latched while the outputs are safe, keeps them so. -/
theorem withSeq_plan (h : s.staysSafe) (idx : SectorIndex) (hw : s.cfg.wellFormed = true) :
    (s.withSeq (plan (s.cfg.target idx)) 0).staysSafe :=
  fun k => enginePlansKeepSafe s.cfg idx s.out k hw (.inl h.out_safe)

end State.staysSafe

theorem staysSafe_resetTurn {s : State} (hk : s.cfg.resetOutputsKnown = true) : (resetTurn s).staysSafe :=
  State.staysSafe_of_no_plan rfl (Outputs.safe_afterReset s.instant hk)

/-- The plan of an engine command is that of a sector or of all-off. -/
theorem exists_planOf_eq_plan {i : Instr} (s : State) (h : engineCommand i = true) :
    ∃ idx, s.planOf i = plan (s.cfg.target idx) := by
  cases i with
  | commutate => exact ⟨_, rfl⟩
  | allOff => exact ⟨.invalid, rfl⟩
  | activateSector x => exact ⟨.sector x, rfl⟩
  | enableHigh p | disableHigh p | enableLowPwm p | disableLowPwm p => cases h

/-- Settles O50: the refusals and the environment's turns leave the outputs and the plan alone, an acceptance latches an engine's plan,
the SEQ takes one micro-op off the plan in progress, and a reset turns everything off. -/
theorem everyDutifulStepStaysSafe : Obligations.EveryDutifulStepStaysSafe := by
  intro s t hk hs hduty h
  have hn : s.nextInstant.staysSafe := hs
  obtain ⟨hw, ⟨rfl, -⟩ | ⟨w, r, -, -, rfl⟩ | ⟨g, l, -, rfl⟩ | ⟨w, i, ms, hu, hb, hd, he, rfl⟩ | ⟨m, -, hm, rfl⟩ | ⟨v, -, rfl⟩ |
    ⟨-, rfl⟩⟩ := step_cases h
  · exact hn
  · exact hn
  · exact hn
  · have hengine : engineCommand i = true := by rw [hu, Turn.keepsDuty, hd] at hduty; exact hduty
    obtain ⟨idx, hplan⟩ := exists_planOf_eq_plan s.nextInstant hengine
    have hms : ms = plan (s.cfg.target idx) := (exec_seqPlan (s := s.nextInstant) hb he).trans hplan
    rw [hms]
    exact hn.withSeq_plan idx hw
  · exact hn.nextMicroOp hm
  · exact hn
  · exact staysSafe_resetTurn hk

end Machine

end Sys2Proof
end
